-- ==== Sys2Proof/Word.lean ====
section
/-! DEFINITION. The bit vectors of the unit (00_scope.md R7, R9; 30_encoding.md R70). -/

namespace Sys2Proof

/-- Every data value: a 64-bit unsigned integer, bit 0 least significant (00 R7, R9). -/
abbrev Word := BitVec 64

/-- The opcode field `op` and the register OPC (30 R70, 10 R23). -/
abbrev Opcode := BitVec 3

/-- The value of port `cmd`: the 195-bit command packet (30 R70). -/
abbrev Packet := BitVec 195

end Sys2Proof
end

