-- ==== Sys2Proof/Config.lean ====
section
/-! DEFINITION. The identity of the unit, what is fixed for it, and the values the spec leaves open
(00_scope.md R2, R7, R8). -/

namespace Sys2Proof.Config

/-- `XLEN`: the data width (00 R7). -/
def xlen : Nat := 64

/-- `NBASES`: the number of witness bases (00 R7). -/
def nbases : Nat := 12

/-- What a model records of the hardware's identity (00 R2, 92 D24). -/
structure Identity where
  name       : String
  /-- The id of the one source document (00 R3, 92 D24). -/
  document   : String
  operations : List String
  wordWidth  : Nat
  vendor     : Option String
  version    : Option String
deriving DecidableEq, Repr

/-- The identity the spec says a model should record; the source names no vendor and no version
(00 R2, 92 D24). -/
def identity : Identity :=
  { name := "lichkim/miller_rabin CORE",
    document := "lichkim-miller_rabin",
    operations := ["MODADD", "MODSUB", "MODMUL", "MODPOW", "MILLER_RABIN"],
    wordWidth := xlen,
    vendor := none,
    version := none }

/-- The edges of a command beyond the first one: the free part of the parameter LATENCY
(00 R8, 70 R200, 92 D18). It has no body, so nothing depends on its value (log 4). -/
opaque extraLatency : Opcode → Word → Word → Word → Nat

/-- `LATENCY(op, a, b, m)`: the number of clock edges from ACCEPT to COMPLETE, at least one
(45 R163, 70 R200). -/
def latency (op : Opcode) (a b m : Word) : Nat := extraLatency op a b m + 1

/-- The `i`-th unspecified value of width `w`: what a register holds where the spec gives it no
value (00 R12, 70 R190, 93 U4). It has no body, so a claim holds for every value of it (log 3). -/
opaque unspecified : (w : Nat) → (i : Nat) → BitVec w

/-- What HOST_BYTE_ORDER ranges over. The spec lists no values for it (00 R8, 20 R53, 93 U9). DESIGN
CHOICE: least significant byte first, or most significant byte first (log 15). -/
inductive ByteOrder where
  | little
  | big
deriving DecidableEq, Repr, Inhabited

/-- `HOST_BYTE_ORDER`: the byte order of a platform wrapper around the ports; no rule depends on it
(00 R8, 20 R53, 93 U9; log 15). -/
opaque hostByteOrder : ByteOrder

end Sys2Proof.Config
end

