-- ==== Sys2Proof/Syntax.lean ====
section
/-! DEFINITION. The command set: one constructor per row of opcode_table.json (30_encoding.md R73). -/

namespace Sys2Proof

/-- The five commands with the operands of their source signatures, in the order `(a, b, m)`
(30 R71, R73). MILLER_RABIN has the one operand n, carried in field `a`; the fields `b` and `m` of
its packet are no operands (30 R74). -/
inductive Instr where
  /-- op 0: `mod_add(a, b, m)` (40 R100). -/
  | modadd (a b m : Word)
  /-- op 1: `mod_sub(a, b, m)` (41 R110). -/
  | modsub (a b m : Word)
  /-- op 2: `mod_mul(a, b, m)` (42 R120). -/
  | modmul (a b m : Word)
  /-- op 3: `mod_pow(a, b, m)` (43 R130). -/
  | modpow (a b m : Word)
  /-- op 4: `miller_rabin(n)` (44 R140). -/
  | millerRabin (n : Word)
deriving DecidableEq, Repr

end Sys2Proof
end

