-- ==== Sys2Proof/WellFormed.lean ====
section
/-! DEFINITION. What is well formed: every command is (30_encoding.md R76); a host line is when it has the
operands of its signature, each within 64 bits (30 R78). -/

namespace Sys2Proof

/-- Every value of every operand is a well-formed command (30 R76). Whether a command is in contract
is another question, answered by `Machine.contractFault`. -/
def Instr.wellFormed : Instr → Bool
  | .modadd _ _ _ => true
  | .modsub _ _ _ => true
  | .modmul _ _ _ => true
  | .modpow _ _ _ => true
  | .millerRabin _ => true

/-- The function names of the host's assembly lines (30 R78). -/
inductive LineName where
  | mod_add
  | mod_sub
  | mod_mul
  | mod_pow
  | miller_rabin
deriving DecidableEq, Repr

/-- A host line `name(x, y, ...)`: a function name and its operand literals, as numbers (30 R78; log 18). -/
structure HostLine where
  name     : LineName
  operands : List Nat
deriving DecidableEq, Repr

/-- The number of operands in the source's signature (30 R73, R78). -/
def LineName.arity : LineName → Nat
  | .mod_add => 3
  | .mod_sub => 3
  | .mod_mul => 3
  | .mod_pow => 3
  | .miller_rabin => 1

/-- Operand literals lie in the range 0 to 2^64-1 (30 R78). -/
def HostLine.operandsInRange (l : HostLine) : Bool := l.operands.all (· < 2 ^ 64)

/-- The line has as many operands as its signature (30 R78). -/
def HostLine.arityMatches (l : HostLine) : Bool := l.operands.length == l.name.arity

/-- A line the assembler accepts (30 R78). -/
def HostLine.wellFormed (l : HostLine) : Bool := l.arityMatches && l.operandsInRange

end Sys2Proof
end

