-- ==== Sys2Proof/Decode.lean ====
section
/-! DEFINITION. The packet layout, the decoder, then the encoder and the text forms (30_encoding.md R70 to R78). -/

namespace Sys2Proof

/-! ### Packet layout (R70) -/

/-- Bits 194:192: the opcode. -/
def Packet.op (p : Packet) : Opcode := p.extractLsb' 192 3

/-- Bits 191:128: the first operand, or the candidate n of MILLER_RABIN. -/
def Packet.a (p : Packet) : Word := p.extractLsb' 128 64

/-- Bits 127:64: the second operand or the exponent. -/
def Packet.b (p : Packet) : Word := p.extractLsb' 64 64

/-- Bits 63:0: the modulus. -/
def Packet.m (p : Packet) : Word := p.extractLsb' 0 64

/-- `cmd = {op, a, b, m}` (R70). -/
def packet (op : Opcode) (a b m : Word) : Packet := op ++ a ++ b ++ m

/-! ### Decoder (R73 to R75) -/

/-- The decoder's verdict: one of the five commands, or `reserved` (R75). -/
inductive Decoded where
  | command (i : Instr)
  | reserved (op : Opcode)
deriving DecidableEq, Repr

/-- The command a verdict names, if it names one. -/
def Decoded.toOption : Decoded → Option Instr
  | .command i => some i
  | .reserved _ => none

/-- The decoder: total on 195-bit values; only `op` selects (R73, R75). MILLER_RABIN takes its operand
from field `a` and does not look at `b` and `m` (R74). -/
def decode (p : Packet) : Decoded :=
  match p.op.toNat with
  | 0 => .command (.modadd p.a p.b p.m)
  | 1 => .command (.modsub p.a p.b p.m)
  | 2 => .command (.modmul p.a p.b p.m)
  | 3 => .command (.modpow p.a p.b p.m)
  | 4 => .command (.millerRabin p.a)
  | _ => .reserved p.op

/-! ### Encoder (R73, R78) -/

/-- The opcode number of a command (R73). -/
def Instr.opcode : Instr → Opcode
  | .modadd _ _ _ => 0
  | .modsub _ _ _ => 1
  | .modmul _ _ _ => 2
  | .modpow _ _ _ => 3
  | .millerRabin _ => 4

/-- The packet of a command; for MILLER_RABIN fields `b` and `m` are written as 0 (R78). -/
def encode (i : Instr) : Packet :=
  match i with
  | .modadd a b m => packet i.opcode a b m
  | .modsub a b m => packet i.opcode a b m
  | .modmul a b m => packet i.opcode a b m
  | .modpow a b m => packet i.opcode a b m
  | .millerRabin n => packet i.opcode n 0 0

/-- The name of a command, as the opcode map has it (30 R73). -/
def Instr.mnemonic : Instr → String
  | .modadd _ _ _ => "MODADD"
  | .modsub _ _ _ => "MODSUB"
  | .modmul _ _ _ => "MODMUL"
  | .modpow _ _ _ => "MODPOW"
  | .millerRabin _ => "MILLER_RABIN"

/-- The match value of a command's row in the opcode map: its opcode in bits 194:192 (R73). -/
def Instr.rowMatch (i : Instr) : Packet := packet i.opcode 0 0 0

/-- The mask of every row of the opcode map: `0x7 << 192` (R73). -/
def rowMask : Packet := packet 7 0 0 0

/-! ### Text forms (R72, R78) -/

/-- The packet as 49 hexadecimal digits, `op` first (R72). -/
def packetText (p : Packet) : List (BitVec 4) :=
  (List.range 49).map fun i => p.extractLsb' (4 * (48 - i)) 4

/-- The value of a list of hexadecimal digits, first digit most significant. -/
def digitsValue (ds : List (BitVec 4)) : Nat := ds.foldl (fun v d => 16 * v + d.toNat) 0

/-- The packet a 49-digit text stands for; the first digit is 0 to 7 (R72). -/
def packetOfText (ds : List (BitVec 4)) : Option Packet :=
  if ds.length = 49 ∧ digitsValue ds < 2 ^ 195 then some (BitVec.ofNat 195 (digitsValue ds)) else none

/-- The command a host line stands for (R78); an ill-formed line is refused. -/
def assemble (l : HostLine) : Option Instr :=
  if l.wellFormed then
    match l.name, l.operands with
    | .mod_add, [a, b, m] => some (.modadd (BitVec.ofNat 64 a) (BitVec.ofNat 64 b) (BitVec.ofNat 64 m))
    | .mod_sub, [a, b, m] => some (.modsub (BitVec.ofNat 64 a) (BitVec.ofNat 64 b) (BitVec.ofNat 64 m))
    | .mod_mul, [a, b, m] => some (.modmul (BitVec.ofNat 64 a) (BitVec.ofNat 64 b) (BitVec.ofNat 64 m))
    | .mod_pow, [a, b, m] => some (.modpow (BitVec.ofNat 64 a) (BitVec.ofNat 64 b) (BitVec.ofNat 64 m))
    | .miller_rabin, [n] => some (.millerRabin (BitVec.ofNat 64 n))
    | _, _ => none
  else none

/-! ### The opcode table's numbering -/

/-- The number a table word of `nbits` bits stands for; bits above `nbits` are 0. -/
def tableValue (nbits w : Nat) : Nat := w % 2 ^ nbits

/-- The packet of a table word. Its bits above 194 do not exist on port `cmd` (R70; log 16). -/
def tablePacket (nbits w : Nat) : Packet := BitVec.ofNat 195 (tableValue nbits w)

/-- The command this decoder reads from a table word; a number that needs more than 195 bits is no
packet (R70, R72; log 16). -/
def decodeTableWord (nbits w : Nat) : Option Instr :=
  if tableValue nbits w < 2 ^ 195 then (decode (tablePacket nbits w)).toOption else none

end Sys2Proof
end

