-- ==== Sys2Proof/Machine/State.lean ====
section
/-! DEFINITION. The state of the unit and of its host (10_state.md R20 to R33), the outcomes of a command that does
not complete (60_exceptions.md R171) and the state after reset (10 R32, 70_reset_and_hazards.md R190). -/

namespace Sys2Proof.Machine

/-- Why a command is out of contract (60 R171). These are names of the model, not signals of the
hardware: ACCEPT records them, the meaning of the command ends in them, and the unit goes on without a
COMPLETE (60 R172). -/
inductive Fault where
  /-- M0: MODADD, MODSUB, MODMUL or MODPOW with m = 0; raised by those four meanings. Safe: the spec
  defines no value and no response (40 R104, 41 R113, 42 R125, 43 R135; log 7). -/
  | m0
  /-- MR_PRECONDITION: MILLER_RABIN with n even or n <= 3; raised by that meaning. Safe: the spec
  defines no value and no response (44 R150; log 8). -/
  | mrPrecondition
deriving DecidableEq, Repr

/-- Why the machine refuses a command; recorded at ACCEPT like a fault (60 R172). -/
inductive Refusal where
  /-- An instruction without a meaning, by mnemonic; raised only by an arm of `exec`, and no arm raises
  it. Safe. -/
  | notModelled (mnemonic : String)
  /-- RESERVED_OPCODE: `op` is 5, 6 or 7; raised by the decoder's verdict, recorded at ACCEPT. Safe: the spec defines no behaviour (30 R75, 60 R171; log 9). -/
  | reservedOpcode
deriving DecidableEq, Repr

/-- An outcome recorded at ACCEPT (60 R172). -/
inductive Mark where
  | fault (f : Fault)
  | refusal (r : Refusal)
deriving DecidableEq, Repr

/-- What the host drives at one rising clock edge (10 R33). -/
structure PortIn where
  rst      : Bool
  cmdValid : Bool
  cmd      : Packet
  rspReady : Bool
deriving DecidableEq, Repr

/-- The host drives nothing: what an exhausted list of inputs reads as (log 1). -/
def PortIn.quiet : PortIn := { rst := false, cmdValid := false, cmd := 0, rspReady := false }

/-- The host presents packet `p` (45 R161). -/
def PortIn.present (p : Packet) : PortIn := { rst := false, cmdValid := true, cmd := p, rspReady := false }

/-- The host takes a response (45 R164). -/
def PortIn.takeRsp : PortIn := { rst := false, cmdValid := false, cmd := 0, rspReady := true }

/-- The host applies reset (70 R190). -/
def PortIn.reset : PortIn := { rst := true, cmdValid := false, cmd := 0, rspReady := false }

/-- The working registers of ModMul: `mul_a`, `mul_b`, `mul_r` (10 R25). -/
structure MulRegs where
  a : Word
  b : Word
  r : Word
deriving DecidableEq, Repr

/-- The working registers of ModPow: `pow_a`, `pow_b`, `pow_r` (10 R25). -/
structure PowRegs where
  a : Word
  b : Word
  r : Word
deriving DecidableEq, Repr

/-- The working registers of MillerRabin: `mr_n`, `mr_temp` (its final value is q), `mr_k`, `mr_i`,
`mr_j`, `mr_x`, `mr_e`, `mr_y` (10 R25, 92 D13). -/
structure MrRegs where
  n    : Word
  temp : Word
  k    : BitVec 7
  i    : BitVec 4
  j    : BitVec 7
  x    : Word
  e    : Word
  y    : Word
deriving DecidableEq, Repr

/-- The working registers, distinct storage for each level of the call nest (10 R25). -/
structure Work where
  mul : MulRegs
  pow : PowRegs
  mr  : MrRegs
deriving DecidableEq, Repr

/-- The state of the unit, and beside it the host's side of the ports. -/
structure State where
  /-- OPC (10 R23). -/
  opc       : Opcode
  /-- R[0], OPA (10 R21). -/
  opa       : Word
  /-- R[1], OPB (10 R21). -/
  opb       : Word
  /-- R[2], OPM (10 R21). -/
  opm       : Word
  /-- R[3], RES (10 R21). -/
  res       : Word
  /-- BUSY (10 R24). -/
  busy      : Bool
  /-- RSP_VALID (10 R24), also port `rsp_valid`. -/
  rspValid  : Bool
  /-- The working registers (10 R25). -/
  work      : Work
  /-- The model's own: edges left before the COMPLETE edge of the command in flight (70 R200; log 4). -/
  wait      : Nat
  /-- The model's own: the outcomes recorded at ACCEPT, oldest first (60 R172; log 6). -/
  marks     : List Mark
  /-- The host's: the responses it has taken, in order (45 R167; log 13). -/
  taken     : List Word
  /-- The host's: how many commands have been accepted (70 R195; log 21). -/
  accepted  : Nat
  /-- The host's: which of them, counted from 1, is the latest one whose response it has taken; 0 when
  there is none (45 R167; log 21). -/
  answered  : Nat
  /-- The host's: what it drives at the coming edges (10 R33; log 1). -/
  inputs    : List PortIn
  /-- The model's own: the index of the next unspecified value (70 R190; log 3). -/
  freeCount : Nat
deriving DecidableEq, Repr

/-- Working registers right after reset: the spec gives no value (10 R32), the model names 0 (log 2). -/
def Work.zero : Work :=
  { mul := { a := 0, b := 0, r := 0 },
    pow := { a := 0, b := 0, r := 0 },
    mr := { n := 0, temp := 0, k := 0, i := 0, j := 0, x := 0, e := 0, y := 0 } }

/-- The machine right after reset: IDLE (10 R32, 70 R190, R192). Every register the spec leaves
unspecified holds 0, the model's choice (log 2). -/
def State.reset : State :=
  { opc := 0, opa := 0, opb := 0, opm := 0, res := 0,
    busy := false, rspValid := false,
    work := Work.zero,
    wait := 0, marks := [], taken := [], accepted := 0, answered := 0, inputs := [], freeCount := 0 }

end Sys2Proof.Machine
end

