-- ==== Sys2Proof/Machine/Algorithms.lean ====
section
/-! DEFINITION. The five functions of the unit, step by step as the spec gives them, on their working registers
(40_modadd.md to 44_miller_rabin.md), and the witness ROM (20_memory.md R50).

The functions are called only on operands that are in contract: a meaning stops before it calls one with
m = 0, where `a mod 0` has no value (00 R10; log 10). -/

namespace Sys2Proof.Machine

/-! ### The witness ROM -/

/-- The contents of the ROM `WB`, in order of index (20 R50; log 11). -/
def witnessRom : List Word := [2, 3, 5, 7, 11, 13, 17, 19, 23, 29, 31, 37]

/-- `WB[i]` for 0 <= i <= 11 (20 R51, 44 R155). -/
def romRead (i : Fin 12) : Word := witnessRom[i.val]'i.isLt

/-- The indexes the witness loop visits, in order (44 R143). -/
def romIndexes : List (Fin 12) := [0, 1, 2, 3, 4, 5, 6, 7, 8, 9, 10, 11]

/-! ### Primitives (00 R10) -/

/-- `a mod m`, for m > 0 (00 R10). -/
def remainder (a m : Word) : Word := a % m

/-- `a & 1 = a[0]` is set (00 R10). -/
def bit0 (a : Word) : Bool := a &&& 1 == 1

/-- `k x`, with `x` evaluated first. It is `k x` whatever `x` (`now_eq`); a loop that goes on through it
is evaluated one iteration at a time. -/
def now {α : Type} (x : Word) (k : Word → α) : α :=
  match x.toNat with
  | 0 => k 0
  | n + 1 => k (BitVec.ofNat 64 (n + 1))

/-! ### ModAdd and ModSub -/

/-- ModAdd (40 R101). -/
def modAdd (a b m : Word) : Word :=
  let a' := remainder a m
  let b' := remainder b m
  let t := m - b'
  if t ≤ a' then a' - t else a' + b'

/-- ModSub (41 R111). -/
def modSub (a b m : Word) : Word :=
  let a' := remainder a m
  let b' := remainder b m
  if a' < b' then
    let t := m - b'
    t + a'
  else a' - b'

/-! ### ModMul -/

/-- Entry of ModMul: both operands reduced, accumulator 0 (42 R121). -/
def mulEnter (a b m : Word) : MulRegs := { a := remainder a m, b := remainder b m, r := 0 }

/-- One iteration of ModMul: test bit 0, accumulate with the multiplicand as it was, shift, double
(42 R121). -/
def mulIter (m : Word) (w : MulRegs) : MulRegs :=
  { r := if bit0 w.b then modAdd w.r w.a m else w.r,
    b := w.b >>> 1,
    a := modAdd w.a w.a m }

/-- The loop of ModMul, `while mul_b >u 0` (42 R121); the first argument bounds its iterations, and 64
are enough (42 R123; log 17). -/
def mulLoop (m : Word) : Nat → MulRegs → MulRegs
  | 0, w => w
  | f + 1, w => if w.b = 0 then w else mulLoop m f (mulIter m w)

/-- ModMul (42 R121): its registers at the end; the result is `mul_r`. -/
def modMul (a b m : Word) : MulRegs := mulLoop m 64 (mulEnter a b m)

/-! ### ModPow -/

/-- Entry of ModPow: the base reduced if a >= m, the exponent not reduced, accumulator 1 not reduced
(43 R131, R132). -/
def powEnter (a b m : Word) : PowRegs :=
  { a := if m ≤ a then remainder a m else a, b := b, r := 1 }

/-- One iteration of ModPow: test bit 0, multiply with the base as it was, shift, square (43 R131). The
squaring is the last call of ModMul, so its registers are the ones left in `mul`. -/
def powIter (m : Word) (w : Work) : Work :=
  let square := modMul w.pow.a w.pow.a m
  { w with
    pow := { r := if bit0 w.pow.b then (modMul w.pow.r w.pow.a m).r else w.pow.r,
             b := w.pow.b >>> 1,
             a := square.r },
    mul := square }

/-- The loop of ModPow, `while pow_b >u 0` (43 R131); the first argument bounds its iterations, and 64
are enough (43 R133; log 17). -/
def powLoop (m : Word) : Nat → Work → Work
  | 0, w => w
  | f + 1, w =>
    if w.pow.b = 0 then w
    else
      let w := powIter m w
      now w.pow.a fun a => now w.pow.r fun r => powLoop m f { w with pow := { w.pow with a := a, r := r } }

/-- ModPow (43 R131): the working registers at the end; the result is `pow_r`. -/
def modPow (a b m : Word) (w : Work) : Work := powLoop m 64 { w with pow := powEnter a b m }

/-! ### MillerRabin -/

/-- The two-valued classification (30 R77, 44 R140). -/
inductive Verdict where
  | prime
  | composite
deriving DecidableEq, Repr

/-- PRIME is encoded as 1 and COMPOSITE as 0 (30 R77). -/
def Verdict.code : Verdict → Word
  | .prime => 1
  | .composite => 0

/-- The loop of Decompose: test bit 0 of `mr_temp` before each shift (44 R141); the first argument
bounds its iterations, and 64 are enough for n >= 2 (44 R142; log 17). -/
def decomposeLoop : Nat → MrRegs → MrRegs
  | 0, w => w
  | f + 1, w =>
    if bit0 w.temp then w else decomposeLoop f { w with temp := w.temp >>> 1, k := w.k + 1 }

/-- Decompose (44 R141): k is left in `mr_k`, q in `mr_temp`. -/
def decompose (n : Word) (w : MrRegs) : MrRegs := decomposeLoop 64 { w with temp := n - 1, k := 1 }

/-- `mr_e <- ModPow(2, mr_j, n)` (44 R146). -/
def computeE (w : Work) : Work :=
  let w := modPow 2 (w.mr.j.setWidth 64) w.mr.n w
  { w with mr := { w.mr with e := w.pow.r } }

/-- `mr_x <- ModPow(a_i, q, n)` (44 R144). -/
def computeX (a : Word) (w : Work) : Work :=
  let w := modPow a w.mr.temp w.mr.n w
  { w with mr := { w.mr with x := w.pow.r } }

/-- `mr_y <- ModPow(ModPow(a_i, q, n), mr_e, n)`, the inner ModPow computed afresh (44 R146, R153). -/
def computeY (a : Word) (w : Work) : Work :=
  let w := modPow a w.mr.temp w.mr.n w
  let w := modPow w.pow.r w.mr.e w.mr.n w
  { w with mr := { w.mr with y := w.pow.r } }

/-- One iteration of the inner loop at index `j`, before its comparison (44 R146). -/
def innerIter (a : Word) (j : Nat) (w : Work) : Work :=
  computeY a (computeE { w with mr := { w.mr with j := BitVec.ofNat 7 j } })

/-- The inner loop of one base, from index `j` for as many iterations as the first number says; the
Bool says whether the base passed (44 R146). -/
def innerLoop (a : Word) : Nat → Nat → Work → Bool × Work
  | 0, _, w => (false, w)
  | f + 1, j, w =>
    let w := innerIter a j w
    if w.mr.y = w.mr.n - 1 then (true, w) else innerLoop a f (j + 1) w

/-- Both tests of the base at ROM index `i`; the Bool says whether the base passed (44 R144, R146). The
inner loop runs j = 0 .. k-2. -/
def testBase (i : Fin 12) (w : Work) : Bool × Work :=
  let a := romRead i
  let w := computeX a { w with mr := { w.mr with i := BitVec.ofNat 4 i.val } }
  if w.mr.x = 1 then (true, w) else innerLoop a (w.mr.k.toNat - 1) 0 w

/-- The witness loop: the first base that passes ends it with PRIME, and COMPOSITE is answered when
none does (44 R143, R145, R147). -/
def witnessLoop : List (Fin 12) → Work → Verdict × Work
  | [], w => (.composite, w)
  | i :: rest, w =>
    match testBase i w with
    | (true, w) => (.prime, w)
    | (false, w) => witnessLoop rest w

/-- MillerRabin (44 R148): the classification, and the working registers at the end. -/
def millerRabin (n : Word) (w : Work) : Verdict × Work :=
  witnessLoop romIndexes { w with mr := decompose n { w.mr with n := n } }

end Sys2Proof.Machine
end

