-- ==== Sys2Proof/Machine/Flags.lean ====
section
/-! DEFINITION. The status flags and what the host sees of them (10_state.md R24, R33; 45_command_protocol.md R160).
No command computes a condition code (10 R24). -/

namespace Sys2Proof.Machine

/-- Port `cmd_ready` = NOT BUSY AND NOT RSP_VALID (10 R24). -/
def State.cmdReady (s : State) : Bool := !s.busy && !s.rspValid

/-- Protocol state IDLE (45 R160). -/
def State.isIdle (s : State) : Bool := !s.busy && !s.rspValid

/-- Protocol state BUSY (45 R160). -/
def State.isBusy (s : State) : Bool := s.busy && !s.rspValid

/-- Protocol state DONE (45 R160). -/
def State.isDone (s : State) : Bool := !s.busy && s.rspValid

end Sys2Proof.Machine
end

