-- ==== Sys2Proof/Machine/Operands.lean ====
section
/-! DEFINITION. Where a command's operands come from (10_state.md R21; 30_encoding.md R71) and the contract each
operation puts on them (60_exceptions.md R171, R174). -/

namespace Sys2Proof.Machine

/-- Reading general register `R[i]`: R[0] = OPA, R[1] = OPB, R[2] = OPM, R[3] = RES (00 R11, 10 R21). -/
def State.reg (s : State) (i : Fin 4) : Word :=
  match i with
  | 0 => s.opa
  | 1 => s.opb
  | 2 => s.opm
  | 3 => s.res

/-- Port `rsp_data`: RES; it means something only while `rsp_valid` = 1 (10 R33). -/
def State.rspData (s : State) : Word := s.reg 3

/-- The command held in OPC, OPA, OPB and OPM, put together as it was taken from the port (30 R71). -/
def State.latched (s : State) : Packet := packet s.opc (s.reg 0) (s.reg 1) (s.reg 2)

/-- The contract of MODADD, MODSUB, MODMUL and MODPOW: m > 0 (40 R104, 41 R113, 42 R125, 43 R135). -/
def modulusFault (m : Word) : Option Fault := if m = 0 then some .m0 else none

/-- The contract of MILLER_RABIN: n odd and n > 3 (44 R150). -/
def candidateFault (n : Word) : Option Fault :=
  if n &&& 1 = 1 ∧ 3 < n then none else some .mrPrecondition

/-- The one test that applies to a command: m for op 0 to 3, n for op 4 (60 R174). -/
def contractFault : Instr → Option Fault
  | .modadd _ _ m => modulusFault m
  | .modsub _ _ m => modulusFault m
  | .modmul _ _ m => modulusFault m
  | .modpow _ _ m => modulusFault m
  | .millerRabin n => candidateFault n

/-- The outcome to record for a packet; `op` is examined first (60 R171, R174). -/
def packetMark (p : Packet) : Option Mark :=
  match decode p with
  | .reserved _ => some (.refusal .reservedOpcode)
  | .command i => (contractFault i).map .fault

end Sys2Proof.Machine
end

