-- ==== Sys2Proof/Machine/Ops.lean ====
section
/-! DEFINITION. The named operations over the state: sampling the ports, ACCEPT, COMPLETE, TAKE, RESET
(45_command_protocol.md R161 to R164; 70_reset_and_hazards.md R190) and the shared end of a command's
meaning. The unit has no writable memory (10_state.md R30) and takes no exception (60_exceptions.md R175). -/

namespace Sys2Proof.Machine

/-- What the host drives at the coming edge; nothing when its list is empty (10 R33; log 1). -/
def State.edgeIn (s : State) : PortIn := s.inputs.headD PortIn.quiet

/-- The coming edge is past. -/
def State.popEdge (s : State) : State := { s with inputs := s.inputs.tail }

/-- OPC, OPA, OPB and OPM take the fields of a packet (45 R161, 30 R71). -/
def State.latch (p : Packet) (s : State) : State :=
  { s with opc := p.op, opa := p.a, opb := p.b, opm := p.m }

/-- An outcome is recorded for the rest of the run; nothing clears the list (60 R172, 70 R191). -/
def State.record (m : Option Mark) (s : State) : State := { s with marks := s.marks ++ m.toList }

/-- The command in flight, one more of the host's, with the edges it waits before the edge of its COMPLETE
(45 R161, 70 R195, R200). -/
def State.start (p : Packet) (s : State) : State :=
  { s with busy := true, wait := Config.extraLatency p.op p.a p.b p.m, accepted := s.accepted + 1 }

/-- ACCEPT: the packet is latched, BUSY is set, and the outcome the packet deserves is recorded
(45 R161, 60 R172, R175). -/
def State.accept (p : Packet) (s : State) : State := ((s.latch p).record (packetMark p)).start p

/-- COMPLETE: `RES <- v; BUSY <- 0; RSP_VALID <- 1`; OPC, OPA, OPB and OPM keep their values (45 R163). -/
def State.complete (v : Word) (s : State) : State := { s with res := v, busy := false, rspValid := true }

/-- TAKE: the host has read RES, and RSP_VALID is cleared; RES keeps its bits (45 R164). The response is
that of the command accepted last (45 R165). -/
def State.take (s : State) : State :=
  { s with rspValid := false, taken := s.taken ++ [s.rspData], answered := s.accepted }

/-- The values the registers of the working levels are left with where the spec gives none (70 R190). -/
def unspecifiedWork (c : Nat) : Work :=
  { mul := { a := Config.unspecified 64 c, b := Config.unspecified 64 (c + 1), r := Config.unspecified 64 (c + 2) },
    pow := { a := Config.unspecified 64 (c + 3), b := Config.unspecified 64 (c + 4),
             r := Config.unspecified 64 (c + 5) },
    mr := { n := Config.unspecified 64 (c + 6), temp := Config.unspecified 64 (c + 7),
            k := Config.unspecified 7 (c + 8), i := Config.unspecified 4 (c + 9),
            j := Config.unspecified 7 (c + 10), x := Config.unspecified 64 (c + 11),
            e := Config.unspecified 64 (c + 12), y := Config.unspecified 64 (c + 13) } }

/-- RESET: `BUSY <- 0; RSP_VALID <- 0`; every other register of the unit is unspecified, so each gets a
free value of its own (70 R190; log 3). No command is left in flight; the recorded outcomes and what
the host has taken are not the unit's and stay (70 R191). -/
def State.resetEdge (s : State) : State :=
  { s with
    busy := false, rspValid := false, wait := 0,
    work := unspecifiedWork s.freeCount,
    opc := Config.unspecified 3 (s.freeCount + 14), opa := Config.unspecified 64 (s.freeCount + 15),
    opb := Config.unspecified 64 (s.freeCount + 16), opm := Config.unspecified 64 (s.freeCount + 17),
    res := Config.unspecified 64 (s.freeCount + 18),
    freeCount := s.freeCount + 19 }

/-- One more edge of the command in flight is past, `k` are left (70 R200). -/
def State.waitOn (k : Nat) (s : State) : State := { s with wait := k }

/-- The working registers after a command (10 R25; log 5). -/
def State.setWork (w : Work) (s : State) : State := { s with work := w }

/-- The shared end of every meaning: out of contract it stops with that fault, in contract the command
completes (60 R171, 45 R163). -/
def endCommand (c : Option Fault) (t : State) : Host.Outcome State Fault Refusal :=
  match c with
  | some f => .fault f
  | none => .next t

/-- What becomes of the unit `s` at the edge at which its command is due, from the outcome of the
command's meaning: a command out of contract has no COMPLETE, so the unit stays as it is, BUSY, and its
recorded outcome stands (45 R163, 60 R172; log 6). -/
def completeOrStay (s : State) : Host.Outcome State Fault Refusal → Host.Outcome State Fault Refusal
  | .next t => .next t
  | .fault _ => .next s
  | .refused r => .refused r

/-- The packet is accepted and its command is due at the coming edge: what `withFetchWord` needs of the
unit (log 12). -/
def State.loadCommand (p : Packet) (s : State) : State := { s.accept p with rspValid := false, wait := 0 }

/-- The host drives nothing at the coming edge, and what it drives after that is kept. -/
def State.quietEdge (s : State) : State :=
  { s with inputs := if s.inputs = [] then [] else PortIn.quiet :: s.inputs }

end Sys2Proof.Machine
end

