-- ==== Sys2Proof/Machine/ModArith.lean ====
section
/-! DEFINITION. The meanings of MODADD, MODSUB, MODMUL and MODPOW (40_modadd.md to 43_modpow.md). No flag is written but
BUSY and RSP_VALID at COMPLETE, no exception is raised, and OPA, OPB, OPM are not changed. -/

namespace Sys2Proof.Machine

/-- MODADD: `RES <- ModAdd(OPA, OPB, OPM)` (40 R100); it has no working register (40 R101). -/
def execModadd (a b m : Word) (s : State) : Host.Outcome State Fault Refusal :=
  endCommand (modulusFault m) (s.complete (modAdd a b m))

/-- MODSUB: `RES <- ModSub(OPA, OPB, OPM)` (41 R110). -/
def execModsub (a b m : Word) (s : State) : Host.Outcome State Fault Refusal :=
  endCommand (modulusFault m) (s.complete (modSub a b m))

/-- MODMUL: `RES <- ModMul(OPA, OPB, OPM)` on the copies `mul_a`, `mul_b`, `mul_r` (42 R120). -/
def execModmul (a b m : Word) (s : State) : Host.Outcome State Fault Refusal :=
  let regs := modMul a b m
  endCommand (modulusFault m) ((s.setWork { s.work with mul := regs }).complete regs.r)

/-- MODPOW: `RES <- ModPow(OPA, OPB, OPM)` on `pow_a`, `pow_b`, `pow_r` (43 R130). -/
def execModpow (a b m : Word) (s : State) : Host.Outcome State Fault Refusal :=
  let work := modPow a b m s.work
  endCommand (modulusFault m) ((s.setWork work).complete work.pow.r)

end Sys2Proof.Machine
end

