-- ==== Sys2Proof/Machine/Primality.lean ====
section
/-! DEFINITION. The meaning of MILLER_RABIN (44_miller_rabin.md). -/

namespace Sys2Proof.Machine

/-- MILLER_RABIN: `RES <- (if MillerRabin(OPA) is PRIME then 1 else 0)` (44 R140). -/
def execMillerRabin (n : Word) (s : State) : Host.Outcome State Fault Refusal :=
  let run := millerRabin n s.work
  endCommand (candidateFault n) ((s.setWork run.2).complete run.1.code)

end Sys2Proof.Machine
end

