-- ==== Sys2Proof/Machine/Dispatch.lean ====
section
/-! DEFINITION. One arm per command: EXECUTE and COMPLETE (45_command_protocol.md R162, R163). -/

namespace Sys2Proof.Machine

def exec (i : Instr) (s : State) : Host.Outcome State Fault Refusal :=
  match i with
  | .modadd a b m => Sys2Proof.Machine.execModadd a b m s
  | .modsub a b m => Sys2Proof.Machine.execModsub a b m s
  | .modmul a b m => Sys2Proof.Machine.execModmul a b m s
  | .modpow a b m => Sys2Proof.Machine.execModpow a b m s
  | .millerRabin n => Sys2Proof.Machine.execMillerRabin n s

end Sys2Proof.Machine
end

