-- ==== Sys2Proof/Machine/Protocol.lean ====
section
/-! DEFINITION. One rising clock edge: which transition happens (45_command_protocol.md R160 to R164;
70_reset_and_hazards.md R190). -/

namespace Sys2Proof.Machine

/-- The edge at which the command in flight is due (45 R162, R163). A command in contract executes and
completes. A reserved opcode is rejected before its operands are looked at (60 R174). A command that is
reserved or out of contract has no COMPLETE, and only RESET gets the unit out of BUSY (60 R172, R176;
log 6). -/
def dueEdge (s : State) : Host.Outcome State Fault Refusal :=
  match decode s.latched with
  | .reserved _ => .next s
  | .command i => completeOrStay s (exec i s)

/-- An edge while BUSY = 1 and `rst` = 0: the latency passes, then the command is due (45 R162, 70 R200). -/
def busyEdge (s : State) : Host.Outcome State Fault Refusal :=
  match s.wait with
  | k + 1 => .next (s.waitOn k)
  | 0 => dueEdge s

/-- An edge while RSP_VALID = 1 and `rst` = 0: TAKE when the host is ready, else the response is held
(45 R164). -/
def doneEdge (e : PortIn) (s : State) : State := if e.rspReady then s.take else s

/-- An edge in IDLE with `rst` = 0: ACCEPT when the host presents a command (45 R161), else the unit
waits (60 R183). -/
def idleEdge (e : PortIn) (s : State) : State := if e.cmdValid then s.accept e.cmd else s

/-- One edge with the inputs `e`; `rst` wins over everything (70 R190, 60 R174). In a state with both
flags set, which no run reaches (10 R24), BUSY decides (log 14). -/
def clockEdge (e : PortIn) (s : State) : Host.Outcome State Fault Refusal :=
  if e.rst then .next s.resetEdge
  else if s.busy then busyEdge s
  else if s.rspValid then .next (doneEdge e s)
  else .next (idleEdge e s)

end Sys2Proof.Machine
end

