-- ==== Sys2Proof/Machine/Step.lean ====
section
/-! DEFINITION. One step of the machine: one rising clock edge (10_state.md R33; log 1). -/

namespace Sys2Proof.Machine

/-- One rising clock edge: the unit samples what the host drives, and one transition happens. -/
def step (s : State) : Host.Outcome State Fault Refusal := clockEdge s.edgeIn s.popEdge

/-- `s` with the table word latched as the command in flight, its latency spent, and no reset at the
coming edge, so that the very next step executes it (log 12). -/
def State.withFetchWord (s : State) (nbits w : Nat) : State :=
  (s.loadCommand (tablePacket nbits w)).quietEdge

end Sys2Proof.Machine
end

