-- ==== Sys2Proof/Safety.lean ====
section
/-! DEFINITION. The terms claims are stated in: the mathematical value of a command, the atomic view, what the host
sees, the invariants, the end of a run (44_miller_rabin.md R149; 45_command_protocol.md R166, R167;
10_state.md R22, R24). Nothing here is called by the machine. -/

namespace Sys2Proof.Safety

open Sys2Proof.Machine

/-! ### Values in unbounded integers -/

/-- The index of the lowest set bit of a 64-bit value, 64 for 0: tz(v) of 00 R13. -/
def trailingZeros (v : Word) : Nat := ((List.range 64).find? fun i => v.getLsbD i).getD 64

/-- The exponent s = tz(n-1) of 44 R142. -/
def twoExponent (n : Word) : Nat := trailingZeros (n - 1)

/-- The odd part q = (n-1) >> s of n-1 (44 R142). -/
def oddPart (n : Word) : Nat := (n - 1).toNat >>> twoExponent n

/-- Base `w` passes for candidate `n`, in unbounded integers: `w^q mod n = 1`, or
`w^(q * 2^j) mod n = n - 1` for some j in 0..s-1 (44 R149). -/
abbrev BasePasses (n w : Word) : Prop :=
  w.toNat ^ oddPart n % n.toNat = 1 ∨
    ∃ j, j < twoExponent n ∧ w.toNat ^ (oddPart n * 2 ^ j) % n.toNat = n.toNat - 1

/-- Some of the twelve bases passes (44 R149). -/
abbrev SomeBasePasses (n : Word) : Prop := ∃ i : Fin 12, BasePasses n (romRead i)

/-- The classification in closed form (44 R149). -/
def classify (n : Word) : Verdict := if SomeBasePasses n then .prime else .composite

/-- The value of a command in contract, in unbounded integers (40 R103, 41 R114, 42 R124, 43 R134,
44 R149, 30 R77). -/
def commandValue : Instr → Word
  | .modadd a b m => BitVec.ofNat 64 ((a.toNat + b.toNat) % m.toNat)
  | .modsub a b m => BitVec.ofNat 64 ((a.toNat % m.toNat + m.toNat - b.toNat % m.toNat) % m.toNat)
  | .modmul a b m => BitVec.ofNat 64 (a.toNat * b.toNat % m.toNat)
  | .modpow a b m => if b = 0 then 1 else BitVec.ofNat 64 (a.toNat ^ b.toNat % m.toNat)
  | .millerRabin n => (classify n).code

/-- The atomic view `issue(p) = response`: for a packet in contract its value, for any other the outcome
to record (45 R166). -/
def issue (p : Packet) : Except Mark Word :=
  match decode p with
  | .reserved _ => .error (.refusal .reservedOpcode)
  | .command i =>
    match contractFault i with
    | some f => .error (.fault f)
    | none => .ok (commandValue i)

/-- `p` decodes to a command that is in contract (00 R13). -/
def InContract (p : Packet) : Prop := ∃ i, decode p = .command i ∧ contractFault i = none

/-! ### What the host sees -/

/-- The output ports, `rsp_data` only while it means something (10 R33). -/
structure PortOut where
  cmdReady : Bool
  rspValid : Bool
  rspData  : Option Word
deriving DecidableEq, Repr

/-- What the unit drives on its output ports in a state (10 R24, R33). -/
def hostSees (s : State) : PortOut :=
  { cmdReady := s.cmdReady, rspValid := s.rspValid, rspData := if s.rspValid then some s.rspData else none }

/-- Two states that differ only in what the host cannot read and no later command can observe
(10 R22, R26, R31): registers of a unit that is not executing, working registers, and RES while it is
no response. -/
structure SameForHost (s t : State) : Prop where
  busy     : s.busy = t.busy
  rspValid : s.rspValid = t.rspValid
  inFlight : s.busy = true → s.latched = t.latched ∧ s.wait = t.wait
  response : s.rspValid = true → s.res = t.res
  marks    : s.marks = t.marks
  taken    : s.taken = t.taken
  accepted : s.accepted = t.accepted
  answered : s.answered = t.answered
  inputs   : s.inputs = t.inputs

/-- Two outcomes of a step that the host cannot tell apart. -/
def SameOutcome : Host.Outcome State Fault Refusal → Host.Outcome State Fault Refusal → Prop
  | .next s, .next t => SameForHost s t
  | .fault f, .fault g => f = g
  | .refused r, .refused q => r = q
  | .next _, .fault _ => False
  | .next _, .refused _ => False
  | .fault _, .next _ => False
  | .fault _, .refused _ => False
  | .refused _, .next _ => False
  | .refused _, .fault _ => False

/-! ### Invariants -/

/-- BUSY and RSP_VALID are never both 1 (10 R24). -/
def FlagsExclusive (s : State) : Prop := ¬(s.busy = true ∧ s.rspValid = true)

/-- The command in flight, if it is out of contract or reserved, has its outcome recorded (60 R172). -/
def OffenceRecorded (s : State) : Prop :=
  s.busy = true → ∀ m, packetMark s.latched = some m → m ∈ s.marks

/-- A response that stands is the value of the command the operand registers still hold (10 R33,
45 R163, R166). -/
def ResponseRight (s : State) : Prop := s.rspValid = true → issue s.latched = .ok s.res

/-- No command is answered before it is accepted, and the one in the unit is not answered yet
(45 R165; log 21). -/
def CountsRight (s : State) : Prop :=
  s.answered ≤ s.accepted ∧ (s.busy = true ∨ s.rspValid = true → s.answered < s.accepted)

/-- What every step keeps. -/
structure Inv (s : State) : Prop where
  flags    : FlagsExclusive s
  offence  : OffenceRecorded s
  response : ResponseRight s

/-! ### Runs -/

/-- `k` clock edges, stopping at the first fault or refusal. -/
def runEdges (k : Nat) (s : State) : Host.Outcome State Fault Refusal := Host.Core.run core k s

/-- A host that presents the packets one after the other, waits for each response and takes it
(30 R78, 70 R195): what it drives, edge by edge. -/
def hostScript : List Packet → List PortIn
  | [] => []
  | p :: ps =>
    PortIn.present p ::
      (List.replicate (Config.latency p.op p.a p.b p.m) PortIn.quiet ++ PortIn.takeRsp :: hostScript ps)

/-- The run of `commands` commands is over: all of them are accepted, the response of the last one is taken,
the unit is IDLE and nothing is recorded (45 R167, 60 R172). An earlier command that a reset abandoned does
not keep the run from ending (95 P4; log 21). -/
def RunEnded (commands : Nat) (s : State) : Prop :=
  s.isIdle = true ∧ s.accepted = commands ∧ s.answered = commands ∧ s.marks = []

end Sys2Proof.Safety
end

