-- ==== Sys2Proof/Certificates/Slice0/Obligations.lean ====
section
/-! DEFINITION. The statements about the model, one definition each. "R<n>" is the numbered rule of spec/ a statement
formalises. Nothing here rests on the value of `Config.extraLatency`, of `Config.unspecified` or of a register
in `State.reset` (logs 2, 3, 4). -/

open Sys2Proof Sys2Proof.Machine Sys2Proof.Safety

/-! ### Identity (00_scope.md) -/

/-- R2: the identity a model should record, and its operation set is that of the five commands. -/
def Obligations.IdentityIsRecorded : Prop :=
  Config.identity.name = "lichkim/miller_rabin CORE" ∧
  Config.identity.operations = ["MODADD", "MODSUB", "MODMUL", "MODPOW", "MILLER_RABIN"] ∧
  Config.identity.wordWidth = 64 ∧ Config.identity.vendor = none ∧ Config.identity.version = none ∧
  (∀ i : Instr, Config.identity.operations[i.opcode.toNat]? = some i.mnemonic)

/-! ### Encoding (30_encoding.md) -/

/-- R73: a packet selects the row when `p AND mask == match`, every mask is `0x7 << 192`, and each row
takes its operands from the fields of R70. -/
def Obligations.RowSelectsByMaskAndMatch : Prop :=
  ∀ p : Packet,
    (p &&& (0x7 : Packet) <<< 192 = (0 : Packet) <<< 192 ↔
      decode p = .command (.modadd (p.extractLsb' 128 64) (p.extractLsb' 64 64) (p.extractLsb' 0 64))) ∧
    (p &&& (0x7 : Packet) <<< 192 = (1 : Packet) <<< 192 ↔
      decode p = .command (.modsub (p.extractLsb' 128 64) (p.extractLsb' 64 64) (p.extractLsb' 0 64))) ∧
    (p &&& (0x7 : Packet) <<< 192 = (2 : Packet) <<< 192 ↔
      decode p = .command (.modmul (p.extractLsb' 128 64) (p.extractLsb' 64 64) (p.extractLsb' 0 64))) ∧
    (p &&& (0x7 : Packet) <<< 192 = (3 : Packet) <<< 192 ↔
      decode p = .command (.modpow (p.extractLsb' 128 64) (p.extractLsb' 64 64) (p.extractLsb' 0 64))) ∧
    (p &&& (0x7 : Packet) <<< 192 = (4 : Packet) <<< 192 ↔
      decode p = .command (.millerRabin (p.extractLsb' 128 64)))

/-- The decoder maps every packet to one of the five commands or to `reserved` (R75), `reserved` is the
verdict on op 5, 6 and 7 and on no other, and the machine refuses a reserved command: the refusal is recorded
when the packet is accepted, and while it is in flight no response appears (R172, 93 U3). That step goes on
then, where R75 leaves open whether the unit responds, is the model's reading (log 6). -/
def Obligations.ReservedOpcodesAreRefused : Prop :=
  (∀ p : Packet, (∃ i, decode p = .command i) ∨ decode p = .reserved p.op) ∧
  (∀ p : Packet, (∃ op, decode p = .reserved op) ↔ p.op = 5 ∨ p.op = 6 ∨ p.op = 7) ∧
  (∀ s : State, s.edgeIn.rst = false → s.edgeIn.cmdValid = true → s.cmdReady = true →
    s.edgeIn.cmd.op = 5 ∨ s.edgeIn.cmd.op = 6 ∨ s.edgeIn.cmd.op = 7 →
    ∃ t, step s = .next t ∧ t.marks = s.marks ++ [.refusal .reservedOpcode]) ∧
  (∀ s : State, s.busy = true → s.edgeIn.rst = false → s.opc = 5 ∨ s.opc = 6 ∨ s.opc = 7 →
    ∃ t, step s = .next t ∧ t.rspValid = s.rspValid ∧ t.taken = s.taken ∧ t.marks = s.marks)

/-- R74: MILLER_RABIN takes field `a` as n; whatever `b` and `m` hold, the command is the same. -/
def Obligations.MillerRabinIgnoresFieldsBAndM : Prop :=
  ∀ n b m : Word, decode (packet 4 n b m) = .command (.millerRabin n)

/-- Decoding what the encoder writes gives the command back, with every operand at every value
(R70, R73, R78). -/
def Obligations.DecodeOfEncodeIsTheCommand : Prop :=
  ∀ i : Instr, i.wellFormed = true → decode (encode i) = .command i

/-- Encoding what the decoder reads gives the packet back; of a MILLER_RABIN packet, the one with `b` and
`m` written as 0 (R73, R74, R78). -/
def Obligations.EncodeOfDecodeIsThePacket : Prop :=
  ∀ (p : Packet) (i : Instr), decode p = .command i →
    (p.op ≠ 4 → encode i = p) ∧ (p.op = 4 → encode i = packet 4 p.a 0 0)

/-- Packets of 95_test_vectors.md, one of each command and two reserved ones, decode as written there. -/
def Obligations.WrittenPacketsDecode : Prop :=
  decode 0x0_0000000000000005_0000000000000007_000000000000000A = .command (.modadd 5 7 10) ∧
  decode 0x1_0000000000000005_0000000000000007_000000000000000A = .command (.modsub 5 7 10) ∧
  decode 0x2_00000000075BCD15_000000003ADE68B1_000000003B9ACA07 =
    .command (.modmul 123456789 987654321 1000000007) ∧
  decode 0x3_0000000000000002_000000000000000A_00000000000003E8 = .command (.modpow 2 10 1000) ∧
  decode 0x4_0000000000000005_FFFFFFFFFFFFFFFF_0000000000000000 = .command (.millerRabin 5) ∧
  decode 0x5_0000000000000000_0000000000000000_0000000000000000 = .reserved 5 ∧
  decode 0x7_FFFFFFFFFFFFFFFF_FFFFFFFFFFFFFFFF_0000000000000000 = .reserved 7

/-- R72: the text of a packet has 49 hexadecimal digits, `op` first, then 16 digits of each of `a`, `b`
and `m`, and stands for that packet; the rule's example is written as it says. -/
def Obligations.PacketTextStandsForThePacket : Prop :=
  (∀ p : Packet, (packetText p).length = 49 ∧ packetOfText (packetText p) = some p ∧
    (packetText p).head? = some (p.op.setWidth 4) ∧
    digitsValue (((packetText p).drop 1).take 16) = p.a.toNat ∧
    digitsValue (((packetText p).drop 17).take 16) = p.b.toNat ∧
    digitsValue ((packetText p).drop 33) = p.m.toNat) ∧
  packetText (encode (.modpow 2 10 1000)) =
    [3] ++ (List.replicate 15 0 ++ [2]) ++ (List.replicate 15 0 ++ [0xA]) ++ (List.replicate 13 0 ++ [3, 0xE, 8])

/-- R78: a host line is assembled to the command it names when it has the operands of its signature, each
below 2^64, and is refused otherwise; `miller_rabin(n)` gets `b` = `m` = 0. -/
def Obligations.HostLineAssembles : Prop :=
  (∀ a b m : Word,
    assemble { name := .mod_add, operands := [a.toNat, b.toNat, m.toNat] } = some (.modadd a b m) ∧
    assemble { name := .mod_sub, operands := [a.toNat, b.toNat, m.toNat] } = some (.modsub a b m) ∧
    assemble { name := .mod_mul, operands := [a.toNat, b.toNat, m.toNat] } = some (.modmul a b m) ∧
    assemble { name := .mod_pow, operands := [a.toNat, b.toNat, m.toNat] } = some (.modpow a b m)) ∧
  (∀ n : Word, assemble { name := .miller_rabin, operands := [n.toNat] } = some (.millerRabin n) ∧
    encode (.millerRabin n) = packet 4 n 0 0) ∧
  (∀ l : HostLine, assemble l = none ↔ l.operands.length ≠ l.name.arity ∨ ∃ x ∈ l.operands, 2 ^ 64 ≤ x)

/-! ### The witness ROM (20_memory.md) -/

/-- R50: the twelve entries, and the ascending order in which MILLER_RABIN visits them. -/
def Obligations.WitnessRomHoldsTheTwelvePrimes : Prop :=
  romIndexes.map romRead = [2, 3, 5, 7, 11, 13, 17, 19, 23, 29, 31, 37] ∧
  romIndexes.map Fin.val = List.range 12

/-! ### ModAdd and ModSub (40_modadd.md, 41_modsub.md) -/

/-- R102: for m > 0 no step of ModAdd wraps, so its `+64` and `-64` are the mathematical ones. -/
def Obligations.ModAddStepsNeverWrap : Prop :=
  ∀ a b m : Word, m ≠ 0 →
    1 ≤ (m - remainder b m).toNat ∧ (m - remainder b m).toNat ≤ m.toNat ∧
    (m - remainder b m).toNat = m.toNat - b.toNat % m.toNat ∧ b.toNat % m.toNat ≤ m.toNat ∧
    (m - remainder b m ≤ remainder a m →
      modAdd a b m = remainder a m - (m - remainder b m) ∧
      (modAdd a b m).toNat = (remainder a m).toNat - (m - remainder b m).toNat ∧
      (m - remainder b m).toNat ≤ (remainder a m).toNat) ∧
    (¬ m - remainder b m ≤ remainder a m →
      modAdd a b m = remainder a m + remainder b m ∧
      (modAdd a b m).toNat = (remainder a m).toNat + (remainder b m).toNat ∧
      (remainder a m).toNat + (remainder b m).toNat < m.toNat)

/-- R103: the value of ModAdd in unbounded integers, always below m, and `mod_add(a,0,m) == a % m`. -/
def Obligations.ModAddValue : Prop :=
  ∀ a b m : Word, m ≠ 0 →
    (modAdd a b m).toNat = (a.toNat % m.toNat + b.toNat % m.toNat) % m.toNat ∧
    (modAdd a b m).toNat = (a.toNat + b.toNat) % m.toNat ∧
    (modAdd a b m).toNat < m.toNat ∧
    (modAdd a 0 m).toNat = a.toNat % m.toNat

/-- R112: for m > 0 no step of ModSub wraps. -/
def Obligations.ModSubStepsNeverWrap : Prop :=
  ∀ a b m : Word, m ≠ 0 →
    (remainder a m < remainder b m →
      1 ≤ (remainder b m).toNat ∧ (remainder b m).toNat ≤ m.toNat ∧
      (m - remainder b m).toNat = m.toNat - (remainder b m).toNat ∧
      1 ≤ (m - remainder b m).toNat ∧ (m - remainder b m).toNat ≤ m.toNat - 1 ∧
      (modSub a b m).toNat = (m - remainder b m).toNat + (remainder a m).toNat ∧
      (m - remainder b m).toNat + (remainder a m).toNat ≤ m.toNat - 1) ∧
    (¬ remainder a m < remainder b m →
      (remainder b m).toNat ≤ (remainder a m).toNat ∧
      (modSub a b m).toNat = (remainder a m).toNat - (remainder b m).toNat)

/-- R114: the value of ModSub in unbounded integers, always below m, and the corner cases (a) to (g). -/
def Obligations.ModSubValue : Prop :=
  (∀ a b m : Word, m ≠ 0 →
    (modSub a b m).toNat = (a.toNat % m.toNat + m.toNat - b.toNat % m.toNat) % m.toNat ∧
    ((modSub a b m).toNat : Int) =
      (((a.toNat % m.toNat : Nat) : Int) - ((b.toNat % m.toNat : Nat) : Int) + m.toNat) % m.toNat ∧
    (modSub a b m).toNat < m.toNat ∧
    (remainder a m = remainder b m → modSub a b m = 0) ∧
    (remainder b m = 0 → modSub a b m = remainder a m) ∧
    (remainder a m = 0 → remainder b m ≠ 0 → modSub a b m = m - remainder b m) ∧
    (m = 1 → modSub a b m = 0) ∧
    modSub (modAdd a b m) b m = remainder a m) ∧
  modSub 25 37 10 = 8 ∧
  modSub 3 0xFFFFFFFFFFFFFFFF 0xFFFFFFFFFFFFFFFE = 2

/-! ### ModMul (42_modmul.md) -/

/-- R122: the loop invariants of ModMul hold at entry and every iteration keeps them, and inside the loop
the reductions of the inner ModAdd change nothing. -/
def Obligations.ModMulLoopInvariants : Prop :=
  ∀ a b m : Word, m ≠ 0 →
    (let w := mulEnter a b m
     w.a.toNat < m.toNat ∧ w.r.toNat < m.toNat ∧
     (w.r.toNat + w.a.toNat * w.b.toNat) % m.toNat = (a.toNat % m.toNat * (b.toNat % m.toNat)) % m.toNat) ∧
    (∀ w : MulRegs, w.a.toNat < m.toNat → w.r.toNat < m.toNat →
      (mulIter m w).a.toNat < m.toNat ∧ (mulIter m w).r.toNat < m.toNat ∧
      ((mulIter m w).r.toNat + (mulIter m w).a.toNat * (mulIter m w).b.toNat) % m.toNat =
        (w.r.toNat + w.a.toNat * w.b.toNat) % m.toNat ∧
      remainder w.a m = w.a ∧ remainder w.r m = w.r)

/-- The loop of ModMul runs once per bit of b mod m up to its highest set bit, at most 64 times, and ends
through its own condition (R123). -/
def Obligations.ModMulIterationCount : Prop :=
  ∀ a b m : Word, m ≠ 0 →
    Nat.size (b.toNat % m.toNat) ≤ 64 ∧
    modMul a b m = (mulIter m)^[Nat.size (b.toNat % m.toNat)] (mulEnter a b m) ∧
    (modMul a b m).b = 0 ∧
    ∀ k, k < Nat.size (b.toNat % m.toNat) → ((mulIter m)^[k] (mulEnter a b m)).b ≠ 0

/-- R124: the value of ModMul in unbounded integers, always below m, and `mod_mul(a,1,m) == a % m`. -/
def Obligations.ModMulValue : Prop :=
  ∀ a b m : Word, m ≠ 0 →
    (modMul a b m).r.toNat = a.toNat * b.toNat % m.toNat ∧
    (modMul a b m).r.toNat < m.toNat ∧
    (modMul a 1 m).r.toNat = a.toNat % m.toNat

/-! ### ModPow (43_modpow.md) -/

/-- The loop invariants of ModPow, its number of iterations, and that the conditional reduction at entry
is a mod m (R133). -/
def Obligations.ModPowLoopInvariants : Prop :=
  ∀ a b m : Word, m ≠ 0 →
    ((powEnter a b m).a.toNat = a.toNat % m.toNat ∧ (powEnter a b m).b = b ∧ (powEnter a b m).r = 1) ∧
    (∀ w : Work, w.pow.a.toNat < m.toNat → w.pow.b ≠ 0 →
      (powIter m w).pow.a.toNat < m.toNat ∧ (powIter m w).pow.b = w.pow.b >>> 1 ∧
      ((powIter m w).pow.r.toNat * (powIter m w).pow.a.toNat ^ (powIter m w).pow.b.toNat) % m.toNat =
        (w.pow.r.toNat * w.pow.a.toNat ^ w.pow.b.toNat) % m.toNat) ∧
    (∀ w : Work, Nat.size b.toNat ≤ 64 ∧
      modPow a b m w = (powIter m)^[Nat.size b.toNat] { w with pow := powEnter a b m } ∧
      (modPow a b m w).pow.b = 0)

/-- R134: the value of ModPow for b >= 1, the value 1 for b = 0 whatever a and m > 0, and so
ModPow(a, 0, 1) = 1. -/
def Obligations.ModPowValue : Prop :=
  ∀ (a b m : Word) (w : Work), m ≠ 0 →
    (b ≠ 0 → (modPow a b m w).pow.r.toNat = a.toNat ^ b.toNat % m.toNat ∧
      (modPow a b m w).pow.r.toNat < m.toNat) ∧
    (modPow a 0 m w).pow.r = 1 ∧
    (modPow a 0 1 w).pow.r = 1

/-- ModPow is a function of its operands: its registers at the end do not depend on what any working
register held before, so computing ModPow(a_i, q, n) afresh gives `mr_x` again (R153, R26). -/
def Obligations.ModPowIsPure : Prop :=
  (∀ (a b m : Word) (w w' : Work), (modPow a b m w).pow = (modPow a b m w').pow ∧ (modPow a b m w).mr = w.mr) ∧
  (∀ (a : Word) (j : Nat) (w : Work), w.mr.x = (modPow a w.mr.temp w.mr.n w).pow.r →
    (innerIter a j w).mr.y = (modPow w.mr.x (innerIter a j w).mr.e w.mr.n w).pow.r)

/-! ### MillerRabin (44_miller_rabin.md) -/

/-- R142: the values of the decomposition for n >= 2, their ranges in contract, and the largest k. -/
def Obligations.DecompositionValues : Prop :=
  (∀ (n : Word) (w : MrRegs), 2 ≤ n.toNat →
    (decompose n w).k.toNat = trailingZeros (n - 1) + 1 ∧
    (decompose n w).temp = (n - 1) >>> trailingZeros (n - 1) ∧
    (decompose n w).temp.toNat % 2 = 1 ∧
    n.toNat - 1 = 2 ^ ((decompose n w).k.toNat - 1) * (decompose n w).temp.toNat ∧
    trailingZeros (n - 1) ≤ 63) ∧
  (∀ (n : Word) (w : MrRegs), n.toNat % 2 = 1 → 3 < n.toNat →
    1 ≤ trailingZeros (n - 1) ∧ 2 ≤ (decompose n w).k.toNat ∧ (decompose n w).k.toNat ≤ 64 ∧
    1 ≤ (decompose n w).temp.toNat ∧ (decompose n w).temp.toNat ≤ (n.toNat - 1) / 2 ∧
    ((decompose n w).k.toNat = 64 → n.toNat = 2 ^ 63 + 1)) ∧
  (∀ w : MrRegs, (decompose 0x8000000000000001 w).k.toNat = 64 ∧ (decompose 0x8000000000000001 w).temp = 1)

/-- In contract the exponent of the inner loop is exactly 2^j: its reduction mod n changes nothing (R146). -/
def Obligations.InnerExponentIsPowerOfTwo : Prop :=
  ∀ (n : Word) (j : Nat) (w : Work), n.toNat % 2 = 1 → 3 < n.toNat → j < twoExponent n →
    2 ^ j < n.toNat ∧ (modPow 2 (BitVec.ofNat 64 j) n w).pow.r.toNat = 2 ^ j

/-- R149: in contract, with n-1 = 2^s * q and q odd, the classification is PRIME exactly when some base
passes in unbounded integers, and COMPOSITE otherwise, whatever the working registers held before. -/
def Obligations.MillerRabinClosedForm : Prop :=
  ∀ (n : Word) (w : Work), n.toNat % 2 = 1 → 3 < n.toNat →
    ((millerRabin n w).1 = .prime ↔
      ∃ i : Fin 12,
        (romRead i).toNat ^ ((n - 1) >>> trailingZeros (n - 1)).toNat % n.toNat = 1 ∨
        ∃ j, j < trailingZeros (n - 1) ∧
          (romRead i).toNat ^ (((n - 1) >>> trailingZeros (n - 1)).toNat * 2 ^ j) % n.toNat = n.toNat - 1) ∧
    ((millerRabin n w).1 = .composite ↔
      ¬ ∃ i : Fin 12,
        (romRead i).toNat ^ ((n - 1) >>> trailingZeros (n - 1)).toNat % n.toNat = 1 ∨
        ∃ j, j < trailingZeros (n - 1) ∧
          (romRead i).toNat ^ (((n - 1) >>> trailingZeros (n - 1)).toNat * 2 ^ j) % n.toNat = n.toNat - 1)

/-- The bases are visited in ROM order and the first one that passes ends the loop: `mr_i` stands at it, no
earlier base passes, and COMPOSITE means that `mr_i` reached 11 and base 11 failed too (R143, R145, R147). That
`mr_i` still holds the index when the command is over is the model's choice (log 5). -/
def Obligations.FirstPassingBaseEndsTheLoop : Prop :=
  ∀ (n : Word) (w : Work), n.toNat % 2 = 1 → 3 < n.toNat →
    ∃ i : Fin 12, (millerRabin n w).2.mr.i = BitVec.ofNat 4 i.val ∧
      (∀ j : Fin 12, j.val < i.val → ¬ BasePasses n (romRead j)) ∧
      ((millerRabin n w).1 = .prime → BasePasses n (romRead i)) ∧
      ((millerRabin n w).1 = .composite → i.val = 11 ∧ ¬ BasePasses n (romRead i))

/-- Every prime above 3 is answered PRIME; the number-theoretic fact behind it is general knowledge of the
spec's, not the source's (R152 (a), 93 G2). -/
def Obligations.EveryPrimeIsAnsweredPrime : Prop :=
  ∀ (n : Word) (s : State), n.toNat.Prime → 3 < n.toNat →
    ∃ t, exec (.millerRabin n) s = .next t ∧ t.res = 1

/-- A COMPOSITE answer is conclusive: the candidate is no prime, and its answer word is 0 (R152 (c), R199 (a)). -/
def Obligations.CompositeAnswerIsConclusive : Prop :=
  ∀ (n : Word) (s t : State), exec (.millerRabin n) s = .next t →
    (t.res = 0 → ¬ n.toNat.Prime) ∧ (t.res = 0 ∨ t.res = 1)

/-- The answers of R156 and 95_test_vectors.md S8, S9, whatever the state: 5 is PRIME, and so is the
composite 9 (90_conflicts.md C3). -/
def Obligations.FiveAndNineAreAnsweredPrime : Prop :=
  ∀ w : Work, (millerRabin 5 w).1 = .prime ∧ (millerRabin 9 w).1 = .prime

/-! ### The five commands (R100, R110, R120, R130, R140; frame R24, R25, R163)

Each says for every state that the command completes, its value in RES, and that nothing changes but RES,
the two flags and the working registers of its own levels. -/

/-- MODADD completes with (a + b) mod m; no other register, flag or working register changes. -/
def Obligations.ModaddCompletes : Prop :=
  ∀ (a b m : Word) (s : State), m ≠ 0 →
    exec (.modadd a b m) s =
      .next { s with
        res := BitVec.ofNat 64 ((a.toNat + b.toNat) % m.toNat), busy := false, rspValid := true }

/-- MODSUB completes with (a - b) mod m; no other register, flag or working register changes. -/
def Obligations.ModsubCompletes : Prop :=
  ∀ (a b m : Word) (s : State), m ≠ 0 →
    exec (.modsub a b m) s =
      .next { s with
        res := BitVec.ofNat 64 ((a.toNat % m.toNat + m.toNat - b.toNat % m.toNat) % m.toNat),
        busy := false, rspValid := true }

/-- MODMUL completes with (a * b) mod m; beside RES and the flags only `mul_a`, `mul_b`, `mul_r` may change. -/
def Obligations.ModmulCompletes : Prop :=
  ∀ (a b m : Word) (s : State), m ≠ 0 →
    ∃ mul : MulRegs, exec (.modmul a b m) s =
      .next { s with
        res := BitVec.ofNat 64 (a.toNat * b.toNat % m.toNat), busy := false, rspValid := true,
        work := { s.work with mul := mul } }

/-- MODPOW completes with 1 for b = 0 and (a ^ b) mod m otherwise; beside RES and the flags only the
registers of ModMul and ModPow may change. -/
def Obligations.ModpowCompletes : Prop :=
  ∀ (a b m : Word) (s : State), m ≠ 0 →
    ∃ (mul : MulRegs) (pow : PowRegs), exec (.modpow a b m) s =
      .next { s with
        res := if b = 0 then 1 else BitVec.ofNat 64 (a.toNat ^ b.toNat % m.toNat),
        busy := false, rspValid := true, work := { s.work with mul := mul, pow := pow } }

/-- MILLER_RABIN completes with 1 when some base passes and with 0 otherwise; beside RES and the flags only
working registers may change. -/
def Obligations.MillerRabinCompletes : Prop :=
  ∀ (n : Word) (s : State), n.toNat % 2 = 1 → 3 < n.toNat →
    ∃ work : Work, exec (.millerRabin n) s =
      .next { s with
        res := if SomeBasePasses n then 1 else 0, busy := false, rspValid := true, work := work }

/-- R104, R113, R125, R135: with m = 0 each of the four commands has the outcome fault M0, whatever a, b
and the state. -/
def Obligations.ZeroModulusFaults : Prop :=
  ∀ (a b : Word) (s : State),
    exec (.modadd a b 0) s = .fault .m0 ∧ exec (.modsub a b 0) s = .fault .m0 ∧
    exec (.modmul a b 0) s = .fault .m0 ∧ exec (.modpow a b 0) s = .fault .m0

/-- R150: MILLER_RABIN with n even or at most 3 has the outcome fault MR_PRECONDITION. -/
def Obligations.CandidateOutOfContractFaults : Prop :=
  ∀ (n : Word) (s : State), n.toNat % 2 = 0 ∨ n.toNat ≤ 3 →
    exec (.millerRabin n) s = .fault .mrPrecondition

/-- R171: the three conditions and their outcomes, with no other condition: `op` 0 to 3 with m = 0, `op` 4
with n even or at most 3, `op` 5 to 7 whatever the operands. -/
def Obligations.OutcomeTableIsComplete : Prop :=
  ∀ p : Packet,
    (p.op.toNat ≤ 3 → packetMark p = if p.m = 0 then some (.fault .m0) else none) ∧
    (p.op.toNat = 4 → packetMark p =
      if p.a.toNat % 2 = 0 ∨ p.a.toNat ≤ 3 then some (.fault .mrPrecondition) else none) ∧
    (5 ≤ p.op.toNat → packetMark p = some (.refusal .reservedOpcode))

/-- R26: the result of a command does not depend on the state it is executed in: not on an earlier
command, not on any register. -/
def Obligations.ResultDependsOnCommandAlone : Prop :=
  ∀ (i : Instr) (s t s' t' : State), exec i s = .next s' → exec i t = .next t' →
    s'.res = t'.res ∧ s'.res = commandValue i

/-! ### The clock edge (45_command_protocol.md, 70_reset_and_hazards.md) -/

/-- When the command in flight is due, the edge without reset runs `exec` of the command the latched packet
decodes to, after the edge's inputs are consumed: the next state is that of `exec`, and where `exec` ends in
a fault the command has no COMPLETE and the unit stays as it is (R162, R163; logs 1, 4, 6). -/
def Obligations.StepExecutesTheLatchedCommand : Prop :=
  ∀ (s : State) (i : Instr), s.busy = true → s.edgeIn.rst = false → s.wait = 0 →
    decode s.latched = .command i →
    (∀ t, exec i s.popEdge = .next t → step s = .next t) ∧
    (∀ f, exec i s.popEdge = .fault f → step s = .next s.popEdge) ∧
    (∀ r, exec i s.popEdge ≠ .refused r)

/-- What `withFetchWord` places is what the very next step executes: the table word decoded, its packet
accepted and due (log 12). -/
def Obligations.FetchedWordRunsAtTheNextStep : Prop :=
  ∀ (s : State) (nbits w : Nat) (i : Instr), decodeTableWord nbits w = some i →
    (∀ t, exec i (s.loadCommand (tablePacket nbits w)) = .next t → step (s.withFetchWord nbits w) = .next t) ∧
    (∀ f, exec i (s.loadCommand (tablePacket nbits w)) = .fault f →
      step (s.withFetchWord nbits w) = .next (s.loadCommand (tablePacket nbits w)) ∧
      .fault f ∈ (s.loadCommand (tablePacket nbits w)).marks)

/-- While the command in flight is in contract and not due, the edge without reset changes only the count
of edges to wait (R162, R200). The count is the model's (log 4). That the working registers keep their values
while BUSY is the model's choice too: R162 and 93 U10 leave open when they change (log 5). -/
def Obligations.BusyEdgeWaits : Prop :=
  ∀ (s : State) (k : Nat), s.busy = true → s.edgeIn.rst = false → s.wait = k + 1 →
    packetMark s.latched = none → step s = .next { s with wait := k, inputs := s.inputs.tail }

/-- OPC selects the function, its operands are OPA, OPB, OPM, and at the edge of COMPLETE
`RES <- v; BUSY <- 0; RSP_VALID <- 1` while OPC, OPA, OPB, OPM keep their values (R162, R163). -/
def Obligations.CompleteWritesTheSelectedFunction : Prop :=
  ∀ s : State, s.busy = true → s.edgeIn.rst = false → s.wait = 0 → packetMark s.latched = none →
    ∃ (v : Word) (w : Work),
      step s = .next { s with
        res := v, busy := false, rspValid := true, work := w, inputs := s.inputs.tail } ∧
      (s.opc = 0 → v = modAdd s.opa s.opb s.opm) ∧
      (s.opc = 1 → v = modSub s.opa s.opb s.opm) ∧
      (s.opc = 2 → v = (modMul s.opa s.opb s.opm).r) ∧
      (s.opc = 3 → v = (modPow s.opa s.opb s.opm s.work).pow.r) ∧
      (s.opc = 4 → v = if (millerRabin s.opa s.work).1 = .prime then 1 else 0)

/-- R161: ACCEPT latches the four fields of the packet and sets BUSY, and beside what the model keeps for
itself (the edges to wait, the recorded outcomes, the count of accepted commands) nothing else changes; while `cmd_ready` = 0 a presented
command has no effect. -/
def Obligations.AcceptLatchesThePacket : Prop :=
  (∀ s : State, s.edgeIn.rst = false → s.edgeIn.cmdValid = true → s.cmdReady = true →
    ∃ (k : Nat) (ms : List Mark) (c : Nat), step s = .next { s with
      opc := s.edgeIn.cmd.extractLsb' 192 3, opa := s.edgeIn.cmd.extractLsb' 128 64,
      opb := s.edgeIn.cmd.extractLsb' 64 64, opm := s.edgeIn.cmd.extractLsb' 0 64,
      busy := true, wait := k, marks := ms, accepted := c, inputs := s.inputs.tail }) ∧
  (∀ (s : State) (e e' : PortIn), s.cmdReady = false → e.rst = e'.rst → e.rspReady = e'.rspReady →
    clockEdge e s = clockEdge e' s)

/-- ACCEPT records the outcome of an offending command, and of no other (R172). -/
def Obligations.AcceptRecordsTheOutcome : Prop :=
  ∀ s : State, s.edgeIn.rst = false → s.edgeIn.cmdValid = true → s.cmdReady = true →
    ∃ t, step s = .next t ∧ t.marks = s.marks ++ (packetMark s.edgeIn.cmd).toList ∧
      t.latched = s.edgeIn.cmd

/-- A command in flight with an outcome to record never completes: at an edge without reset the unit stays
BUSY with the same command, the same responses and the same recorded outcomes, whatever the host drives
(R163, R172); a command without one waits or completes. That the unit stays so, and what its registers hold
meanwhile, is the model's (logs 4, 5, 6). -/
def Obligations.OffendingCommandNeverCompletes : Prop :=
  ∀ s : State, s.busy = true → s.edgeIn.rst = false →
    (packetMark s.latched ≠ none →
      ∃ (k : Nat) (w : Work), step s = .next { s with wait := k, work := w, inputs := s.inputs.tail }) ∧
    (packetMark s.latched = none →
      ∃ t, step s = .next t ∧
        ((s.wait ≠ 0 ∧ t.busy = true ∧ t.rspValid = s.rspValid) ∨
          (s.wait = 0 ∧ t.busy = false ∧ t.rspValid = true)))

/-- RESET is the only way out of a command that never completes, and it is one at every edge (R176, R191):
from IDLE, a packet with an outcome `m` to record is accepted, and after any number of edges without reset
the unit is still BUSY with it, answering nothing, `m` recorded once; then an edge with `rst` = 1 makes the
unit IDLE, no response appears, and `m` stays recorded. That the unit stays BUSY meanwhile is the model's
reading (log 6). -/
def Obligations.OnlyResetRecoversFromAnOffence : Prop :=
  ∀ (s : State) (p : Packet) (m : Mark) (e₀ e₁ : PortIn) (edges rest : List PortIn),
    s.cmdReady = true → packetMark p = some m →
    e₀.rst = false → e₀.cmdValid = true → e₀.cmd = p →
    (∀ e ∈ edges, e.rst = false) → e₁.rst = true →
    s.inputs = e₀ :: (edges ++ e₁ :: rest) →
    ∃ t u, runEdges (edges.length + 1) s = .next t ∧
      t.busy = true ∧ t.rspValid = false ∧ t.latched = p ∧ t.taken = s.taken ∧ t.marks = s.marks ++ [m] ∧
      runEdges (edges.length + 2) s = .next u ∧
      u.cmdReady = true ∧ u.rspValid = false ∧ u.taken = s.taken ∧ u.marks = s.marks ++ [m] ∧ u.inputs = rest

/-- The unit raises no exception and never stops: every edge answers a next state, whatever the state and
whatever the host drives (R170, R175). That this is so also while a command out of contract or a reserved one
is in flight, where R175 leaves the unit's behaviour undefined, is the model's reading (log 6). -/
def Obligations.EveryEdgeAnswersANextState : Prop := ∀ s : State, ∃ t, step s = .next t

/-- Recorded outcomes are never cleared, not at reset either, and only ACCEPT adds one (R172, R191). -/
def Obligations.RecordedOutcomesStay : Prop :=
  ∀ s t : State, step s = .next t →
    t.marks = s.marks ∨
      (s.edgeIn.rst = false ∧ s.edgeIn.cmdValid = true ∧ s.cmdReady = true ∧
        t.marks = s.marks ++ (packetMark s.edgeIn.cmd).toList)

/-- R164: TAKE clears RSP_VALID and hands RES to the host, which keeps its bits, and beside the host's count
of answered commands nothing else changes; while `rsp_ready` = 0 the response is held, whatever else the host
drives. -/
def Obligations.TakeHandsOverTheResponse : Prop :=
  ∀ s : State, s.edgeIn.rst = false → s.busy = false → s.rspValid = true →
    (s.edgeIn.rspReady = true →
      ∃ c : Nat, step s = .next { s with
        rspValid := false, taken := s.taken ++ [s.res], answered := c, inputs := s.inputs.tail }) ∧
    (s.edgeIn.rspReady = false → step s = .next { s with inputs := s.inputs.tail })

/-- In IDLE, with no command presented and no reset, the unit waits: nothing of it changes (R183). -/
def Obligations.IdleUnitWaits : Prop :=
  ∀ s : State, s.edgeIn.rst = false → s.edgeIn.cmdValid = false → s.cmdReady = true →
    step s = .next { s with inputs := s.inputs.tail }

/-- An edge with `rst` = 1 clears BUSY and RSP_VALID whatever the state and the other inputs; the unit is
IDLE after it, and its other registers may hold anything (R190). The recorded outcomes stay (R191). That the
count of edges to wait is cleared is the model's choice (log 4), and so is that the host's list of responses
taken (log 13) and its two counts (log 21) stay. -/
def Obligations.ResetEdgeClearsTheFlags : Prop :=
  ∀ s : State, s.edgeIn.rst = true →
    ∃ (o : Opcode) (a b m r : Word) (w : Work) (c : Nat),
      step s = .next { s with
        busy := false, rspValid := false, wait := 0, inputs := s.inputs.tail,
        opc := o, opa := a, opb := b, opm := m, res := r, work := w, freeCount := c } ∧
      (∀ t, step s = .next t → t.cmdReady = true ∧ t.rspValid = false)

/-- Nothing of a command abandoned by a reset, nor of a response discarded by one, can be told apart
afterwards: two units that the same host resets are the same for it (R191). -/
def Obligations.ResetLeavesNoTrace : Prop :=
  ∀ s t : State, s.edgeIn.rst = true → t.edgeIn.rst = true → s.inputs.tail = t.inputs.tail →
    s.taken = t.taken → s.marks = t.marks → s.accepted = t.accepted → s.answered = t.answered →
    ∃ s' t', step s = .next s' ∧ step t = .next t' ∧ SameForHost s' t' ∧ s'.taken = s.taken

/-- R160: the three protocol states and the transitions between them; every other edge leaves the
protocol state as it is. -/
def Obligations.OnlyListedTransitions : Prop :=
  ∀ s : State, FlagsExclusive s →
    (s.isIdle = true ∨ s.isBusy = true ∨ s.isDone = true) ∧
    ∀ t, step s = .next t →
      (s.edgeIn.rst = true ∧ t.isIdle = true) ∨
      (s.edgeIn.rst = false ∧ s.isIdle = true ∧ s.edgeIn.cmdValid = true ∧ t.isBusy = true) ∨
      (s.edgeIn.rst = false ∧ s.isBusy = true ∧ t.isDone = true) ∨
      (s.edgeIn.rst = false ∧ s.isDone = true ∧ s.edgeIn.rspReady = true ∧ t.isIdle = true) ∨
      (s.edgeIn.rst = false ∧ s.isIdle = true ∧ s.edgeIn.cmdValid = false ∧ t.isIdle = true) ∨
      (s.edgeIn.rst = false ∧ s.isBusy = true ∧ t.isBusy = true) ∨
      (s.edgeIn.rst = false ∧ s.isDone = true ∧ s.edgeIn.rspReady = false ∧ t.isDone = true)

/-- A response reaches the host only by TAKE, one at a time, at the end of its list (R164, R165). -/
def Obligations.ResponsesAreTakenOneAtATime : Prop :=
  ∀ s t : State, step s = .next t →
    t.taken = s.taken ∨
      (t.taken = s.taken ++ [s.res] ∧ s.rspValid = true ∧ t.rspValid = false ∧
        s.edgeIn.rspReady = true ∧ s.edgeIn.rst = false)

/-- The host's two counts (log 21): an edge that accepts a command adds one to the accepted ones, an edge that
takes a response makes the last accepted one the latest answered, every other edge leaves both; and so no
command is answered before it is accepted, nor the one in the unit before its response is taken (R161, R164,
R165). -/
def Obligations.CountsFollowTheProtocol : Prop :=
  ∀ s t : State, step s = .next t →
    ((s.edgeIn.rst = false ∧ s.cmdReady = true ∧ s.edgeIn.cmdValid = true ∧
        t.accepted = s.accepted + 1 ∧ t.answered = s.answered) ∨
      (s.edgeIn.rst = false ∧ s.busy = false ∧ s.rspValid = true ∧ s.edgeIn.rspReady = true ∧
        t.accepted = s.accepted ∧ t.answered = s.accepted) ∨
      (¬(s.edgeIn.rst = false ∧ s.cmdReady = true ∧ s.edgeIn.cmdValid = true) ∧
        ¬(s.edgeIn.rst = false ∧ s.busy = false ∧ s.rspValid = true ∧ s.edgeIn.rspReady = true) ∧
        t.accepted = s.accepted ∧ t.answered = s.answered)) ∧
    (CountsRight s → CountsRight t)

/-! ### Whole-machine statements -/

/-- The state after reset is IDLE, with nothing recorded and nothing taken (R32, R192). -/
def Obligations.ResetStateIsIdle : Prop :=
  State.reset.busy = false ∧ State.reset.rspValid = false ∧ State.reset.cmdReady = true ∧
  State.reset.marks = [] ∧ State.reset.taken = []

/-- The state after reset meets the invariant, and the host's counts are right (log 21). -/
def Obligations.ResetMeetsInvariant : Prop := Inv State.reset ∧ CountsRight State.reset

/-- Every step keeps the invariant: the two flags are never both 1, a command in flight that is out of
contract or reserved has its outcome recorded, and a response that stands is the value of the command the
operand registers hold (R24, R33, R163, R172). -/
def Obligations.StepKeepsInvariant : Prop :=
  ∀ s t : State, Inv s → step s = .next t → Inv t

/-- The host cannot tell apart two states that differ only in what it cannot read: their output ports are
the same, and so are, for the host, the outcomes of the next edge (R22, R26, R31). -/
def Obligations.HiddenRegistersAreNotObservable : Prop :=
  ∀ s t : State, SameForHost s t → hostSees s = hostSees t ∧ SameOutcome (step s) (step t)

/-- The protocol refines the atomic view (R163, R166, R200): from IDLE, a packet in contract that is
presented, followed by as many edges without reset as its latency says and an edge at which the host takes,
gives the host the one response `issue p`, and the unit is IDLE again, whatever else the host drives. -/
def Obligations.ProtocolRefinesAtomicIssue : Prop :=
  ∀ (s : State) (p : Packet) (v : Word) (e₀ e₁ : PortIn) (edges rest : List PortIn),
    s.cmdReady = true → issue p = .ok v →
    e₀.rst = false → e₀.cmdValid = true → e₀.cmd = p →
    edges.length = Config.latency p.op p.a p.b p.m → (∀ e ∈ edges, e.rst = false) →
    e₁.rst = false → e₁.rspReady = true →
    s.inputs = e₀ :: (edges ++ e₁ :: rest) →
    ∃ t, runEdges (edges.length + 2) s = .next t ∧
      t.isIdle = true ∧ t.taken = s.taken ++ [v] ∧ t.marks = s.marks ∧ t.inputs = rest ∧
      t.accepted = s.accepted + 1 ∧ t.answered = t.accepted

/-- One command, one response, in order (R165, R167): a host that presents any list of packets in contract,
one after the other, ends with exactly their values taken, in that order, the unit IDLE and nothing
recorded. -/
def Obligations.CommandsAreAnsweredInOrder : Prop :=
  ∀ (ps : List Packet) (vs : List Word) (s : State) (rest : List PortIn),
    s.cmdReady = true → List.Forall₂ (fun p v => issue p = .ok v) ps vs →
    s.inputs = hostScript ps ++ rest →
    ∃ k t, runEdges k s = .next t ∧
      t.isIdle = true ∧ t.taken = s.taken ++ vs ∧ t.marks = s.marks ∧ t.inputs = rest ∧
      (s.marks = [] → ps ≠ [] ∨ s.answered = s.accepted → RunEnded (s.accepted + ps.length) t)

/-- The run ends when the response of its last command has been taken, also where a reset abandoned the
command before it (R167, R191, program P4): from IDLE with nothing recorded, a packet in contract is
accepted and a reset falls before the host takes a response for it; then a second one is presented, has its
latency and is taken. The run of these commands has ended with the one response. The counts that say so are
the host's in the model (log 21). -/
def Obligations.RunEndsWithTheLastResponse : Prop :=
  ∀ (s : State) (p q : Packet) (u v : Word) (e₀ e₁ e₂ e₃ : PortIn) (edges edges' rest : List PortIn),
    s.cmdReady = true → s.marks = [] → issue p = .ok u → issue q = .ok v →
    e₀.rst = false → e₀.cmdValid = true → e₀.cmd = p →
    (∀ e ∈ edges, e.rst = false ∧ e.rspReady = false) → e₁.rst = true →
    e₂.rst = false → e₂.cmdValid = true → e₂.cmd = q →
    edges'.length = Config.latency q.op q.a q.b q.m → (∀ e ∈ edges', e.rst = false) →
    e₃.rst = false → e₃.rspReady = true →
    s.inputs = e₀ :: (edges ++ e₁ :: e₂ :: (edges' ++ e₃ :: rest)) →
    ∃ t, runEdges (edges.length + 2 + (edges'.length + 2)) s = .next t ∧
      RunEnded (s.accepted + 2) t ∧ t.taken = s.taken ++ [v] ∧ t.inputs = rest
end

