-- ==== Sys2Proof/Laws/Algorithms.lean ====
section
/-! SUPPORT. The loops of the five functions, one equation for each case, and which working registers each level
leaves alone (10_state.md R25). -/

namespace Sys2Proof.Machine

theorem now_eq {α : Type} (x : Word) (k : Word → α) : now x k = k x := by
  unfold now
  split
  · rename_i h
    exact congrArg k (BitVec.eq_of_toNat_eq h.symm)
  · rename_i n h
    rw [show n + 1 = x.toNat from h.symm, BitVec.ofNat_toNat, BitVec.setWidth_eq]

/-! ### ModMul -/

@[simp] theorem mulLoop_zero (m : Word) (w : MulRegs) : mulLoop m 0 w = w := rfl

theorem mulLoop_done (m : Word) (f : Nat) (w : MulRegs) (h : w.b = 0) : mulLoop m f w = w := by
  cases f with
  | zero => rfl
  | succ f => rw [mulLoop, if_pos h]

theorem mulLoop_step (m : Word) (f : Nat) (w : MulRegs) (h : w.b ≠ 0) :
    mulLoop m (f + 1) w = mulLoop m f (mulIter m w) := by
  rw [mulLoop, if_neg h]

@[simp] theorem mulIter_b (m : Word) (w : MulRegs) : (mulIter m w).b = w.b >>> 1 := rfl
@[simp] theorem mulIter_a (m : Word) (w : MulRegs) : (mulIter m w).a = modAdd w.a w.a m := rfl

/-! ### ModPow -/

@[simp] theorem powLoop_zero (m : Word) (w : Work) : powLoop m 0 w = w := rfl

theorem powLoop_done (m : Word) (f : Nat) (w : Work) (h : w.pow.b = 0) : powLoop m f w = w := by
  cases f with
  | zero => rfl
  | succ f => rw [powLoop, if_pos h]

theorem powLoop_step (m : Word) (f : Nat) (w : Work) (h : w.pow.b ≠ 0) :
    powLoop m (f + 1) w = powLoop m f (powIter m w) := by
  rw [powLoop, if_neg h]
  simp only [now_eq]

@[simp] theorem powIter_mr (m : Word) (w : Work) : (powIter m w).mr = w.mr := rfl
@[simp] theorem powIter_b (m : Word) (w : Work) : (powIter m w).pow.b = w.pow.b >>> 1 := rfl

@[simp] theorem powLoop_mr (m : Word) (f : Nat) (w : Work) : (powLoop m f w).mr = w.mr := by
  induction f generalizing w with
  | zero => rfl
  | succ f ih =>
    by_cases h : w.pow.b = 0
    · rw [powLoop_done m _ w h]
    · rw [powLoop_step m f w h, ih, powIter_mr]

/-- ModPow leaves the registers of MillerRabin alone (10 R25). -/
@[simp] theorem modPow_mr (a b m : Word) (w : Work) : (modPow a b m w).mr = w.mr := powLoop_mr m 64 _

/-! ### MillerRabin -/

theorem decomposeLoop_done (f : Nat) (w : MrRegs) (h : bit0 w.temp = true) : decomposeLoop f w = w := by
  cases f with
  | zero => rfl
  | succ f => rw [decomposeLoop, if_pos h]

theorem decomposeLoop_step (f : Nat) (w : MrRegs) (h : bit0 w.temp = false) :
    decomposeLoop (f + 1) w = decomposeLoop f { w with temp := w.temp >>> 1, k := w.k + 1 } := by
  rw [decomposeLoop, if_neg (by simp [h])]

@[simp] theorem decomposeLoop_n (f : Nat) (w : MrRegs) : (decomposeLoop f w).n = w.n := by
  induction f generalizing w with
  | zero => rfl
  | succ f ih =>
    cases h : bit0 w.temp with
    | true => rw [decomposeLoop_done _ w h]
    | false => rw [decomposeLoop_step f w h, ih]

/-- Decompose leaves `mr_n` alone (44 R141). -/
@[simp] theorem decompose_n (n : Word) (w : MrRegs) : (decompose n w).n = w.n := decomposeLoop_n 64 _

/-- What every register of MillerRabin but the named one holds after a call: what it held before. -/
theorem computeX_mr (a : Word) (w : Work) :
    (computeX a w).mr = { w.mr with x := (modPow a w.mr.temp w.mr.n w).pow.r } := by
  simp [computeX]

theorem computeE_mr (w : Work) :
    (computeE w).mr = { w.mr with e := (modPow 2 (w.mr.j.setWidth 64) w.mr.n w).pow.r } := by
  simp [computeE]

theorem computeY_mr (a : Word) (w : Work) :
    (computeY a w).mr =
      { w.mr with
        y := (modPow (modPow a w.mr.temp w.mr.n w).pow.r w.mr.e w.mr.n (modPow a w.mr.temp w.mr.n w)).pow.r } := by
  simp [computeY]

/-- The loops of the engine change `mr_j`, `mr_e`, `mr_y` only: n, q, k, i and x stay (44 R146). -/
theorem innerIter_mr (a : Word) (j : Nat) (w : Work) :
    (innerIter a j w).mr.n = w.mr.n ∧ (innerIter a j w).mr.temp = w.mr.temp ∧
      (innerIter a j w).mr.k = w.mr.k ∧ (innerIter a j w).mr.i = w.mr.i ∧ (innerIter a j w).mr.x = w.mr.x ∧
      (innerIter a j w).mr.j = BitVec.ofNat 7 j := by
  simp [innerIter, computeY_mr, computeE_mr]

theorem innerLoop_zero (a : Word) (j : Nat) (w : Work) : innerLoop a 0 j w = (false, w) := rfl

theorem innerLoop_succ (a : Word) (f j : Nat) (w : Work) :
    innerLoop a (f + 1) j w =
      if (innerIter a j w).mr.y = (innerIter a j w).mr.n - 1 then (true, innerIter a j w)
      else innerLoop a f (j + 1) (innerIter a j w) := rfl

theorem innerLoop_mr (a : Word) (f j : Nat) (w : Work) :
    (innerLoop a f j w).2.mr.n = w.mr.n ∧ (innerLoop a f j w).2.mr.temp = w.mr.temp ∧
      (innerLoop a f j w).2.mr.k = w.mr.k := by
  induction f generalizing j w with
  | zero => exact ⟨rfl, rfl, rfl⟩
  | succ f ih =>
    obtain ⟨hn, ht, hk, -, -, -⟩ := innerIter_mr a j w
    rw [innerLoop_succ]
    split
    · exact ⟨hn, ht, hk⟩
    · obtain ⟨h1, h2, h3⟩ := ih (j + 1) (innerIter a j w)
      exact ⟨h1.trans hn, h2.trans ht, h3.trans hk⟩

/-- A test of one base leaves n, q and k as they were, for the next base (44 R148). -/
theorem testBase_mr (i : Fin 12) (w : Work) :
    (testBase i w).2.mr.n = w.mr.n ∧ (testBase i w).2.mr.temp = w.mr.temp ∧ (testBase i w).2.mr.k = w.mr.k := by
  unfold testBase
  dsimp only
  split
  · simp [computeX_mr]
  · obtain ⟨h1, h2, h3⟩ := innerLoop_mr (romRead i)
      ((computeX (romRead i) { w with mr := { w.mr with i := BitVec.ofNat 4 i.val } }).mr.k.toNat - 1) 0
      (computeX (romRead i) { w with mr := { w.mr with i := BitVec.ofNat 4 i.val } })
    rw [h1, h2, h3]
    simp [computeX_mr]

theorem innerLoop_i (a : Word) (f j : Nat) (w : Work) : (innerLoop a f j w).2.mr.i = w.mr.i := by
  induction f generalizing j w with
  | zero => rfl
  | succ f ih =>
    obtain ⟨-, -, -, hi, -, -⟩ := innerIter_mr a j w
    rw [innerLoop_succ]
    split
    · exact hi
    · exact (ih (j + 1) (innerIter a j w)).trans hi

/-- After the test of a base `mr_i` is its index (44 R143). -/
theorem testBase_i (i : Fin 12) (w : Work) : (testBase i w).2.mr.i = BitVec.ofNat 4 i.val := by
  unfold testBase
  dsimp only
  split
  · simp [computeX_mr]
  · rw [innerLoop_i, computeX_mr]

theorem witnessLoop_nil (w : Work) : witnessLoop [] w = (.composite, w) := rfl

theorem witnessLoop_cons (i : Fin 12) (rest : List (Fin 12)) (w : Work) :
    witnessLoop (i :: rest) w =
      if (testBase i w).1 then (.prime, (testBase i w).2) else witnessLoop rest (testBase i w).2 := by
  rw [witnessLoop]
  cases h : testBase i w with
  | mk passed w' => cases passed <;> rfl

end Sys2Proof.Machine
end

