-- ==== Sys2Proof/Laws/Packet.lean ====
section
/-! SUPPORT. The fields of a packet (30_encoding.md R70): what `packet` puts together, the accessors take apart. -/

namespace Sys2Proof

theorem packet_toNat (op : Opcode) (a b m : Word) :
    (packet op a b m).toNat = ((op.toNat * 2 ^ 64 + a.toNat) * 2 ^ 64 + b.toNat) * 2 ^ 64 + m.toNat := by
  have ha := a.isLt
  have hb := b.isLt
  have hm := m.isLt
  simp only [packet, BitVec.toNat_append]
  rw [← Nat.shiftLeft_add_eq_or_of_lt ha, ← Nat.shiftLeft_add_eq_or_of_lt hb,
    ← Nat.shiftLeft_add_eq_or_of_lt hm]
  simp only [Nat.shiftLeft_eq]

theorem packet_op (op : Opcode) (a b m : Word) : (packet op a b m).op = op := by
  apply BitVec.eq_of_toNat_eq
  have ha := a.isLt
  have hb := b.isLt
  have hm := m.isLt
  have ho := op.isLt
  simp only [Packet.op, BitVec.extractLsb'_toNat, packet_toNat, Nat.shiftRight_eq_div_pow]
  omega

theorem packet_a (op : Opcode) (a b m : Word) : (packet op a b m).a = a := by
  apply BitVec.eq_of_toNat_eq
  have ha := a.isLt
  have hb := b.isLt
  have hm := m.isLt
  simp only [Packet.a, BitVec.extractLsb'_toNat, packet_toNat, Nat.shiftRight_eq_div_pow]
  omega

theorem packet_b (op : Opcode) (a b m : Word) : (packet op a b m).b = b := by
  apply BitVec.eq_of_toNat_eq
  have hb := b.isLt
  have hm := m.isLt
  simp only [Packet.b, BitVec.extractLsb'_toNat, packet_toNat, Nat.shiftRight_eq_div_pow]
  omega

theorem packet_m (op : Opcode) (a b m : Word) : (packet op a b m).m = m := by
  apply BitVec.eq_of_toNat_eq
  have hm := m.isLt
  simp only [Packet.m, BitVec.extractLsb'_toNat, packet_toNat, Nat.shiftRight_eq_div_pow]
  omega

/-- Two packets with the same four fields are the same packet. -/
theorem packet_fields (p : Packet) : packet p.op p.a p.b p.m = p := by
  apply BitVec.eq_of_toNat_eq
  have hp := p.isLt
  rw [packet_toNat]
  simp only [Packet.op, Packet.a, Packet.b, Packet.m, BitVec.extractLsb'_toNat, Nat.shiftRight_eq_div_pow]
  omega

end Sys2Proof
end

