-- ==== Sys2Proof/Laws/State.lean ====
section
/-! SUPPORT. One lemma per field per update of State, so that no later proof unfolds a record update. -/

namespace Sys2Proof.Machine.State

variable (s : State)

/-! ### `popEdge` -/

@[simp] theorem popEdge_opc : s.popEdge.opc = s.opc := rfl
@[simp] theorem popEdge_opa : s.popEdge.opa = s.opa := rfl
@[simp] theorem popEdge_opb : s.popEdge.opb = s.opb := rfl
@[simp] theorem popEdge_opm : s.popEdge.opm = s.opm := rfl
@[simp] theorem popEdge_res : s.popEdge.res = s.res := rfl
@[simp] theorem popEdge_busy : s.popEdge.busy = s.busy := rfl
@[simp] theorem popEdge_rspValid : s.popEdge.rspValid = s.rspValid := rfl
@[simp] theorem popEdge_work : s.popEdge.work = s.work := rfl
@[simp] theorem popEdge_wait : s.popEdge.wait = s.wait := rfl
@[simp] theorem popEdge_marks : s.popEdge.marks = s.marks := rfl
@[simp] theorem popEdge_taken : s.popEdge.taken = s.taken := rfl
@[simp] theorem popEdge_answered : s.popEdge.answered = s.answered := rfl
@[simp] theorem popEdge_accepted : s.popEdge.accepted = s.accepted := rfl
@[simp] theorem popEdge_inputs : s.popEdge.inputs = s.inputs.tail := rfl
@[simp] theorem popEdge_freeCount : s.popEdge.freeCount = s.freeCount := rfl

/-! ### `latch` -/

@[simp] theorem latch_opc (p : Packet) : (s.latch p).opc = p.op := rfl
@[simp] theorem latch_opa (p : Packet) : (s.latch p).opa = p.a := rfl
@[simp] theorem latch_opb (p : Packet) : (s.latch p).opb = p.b := rfl
@[simp] theorem latch_opm (p : Packet) : (s.latch p).opm = p.m := rfl
@[simp] theorem latch_res (p : Packet) : (s.latch p).res = s.res := rfl
@[simp] theorem latch_busy (p : Packet) : (s.latch p).busy = s.busy := rfl
@[simp] theorem latch_rspValid (p : Packet) : (s.latch p).rspValid = s.rspValid := rfl
@[simp] theorem latch_work (p : Packet) : (s.latch p).work = s.work := rfl
@[simp] theorem latch_wait (p : Packet) : (s.latch p).wait = s.wait := rfl
@[simp] theorem latch_marks (p : Packet) : (s.latch p).marks = s.marks := rfl
@[simp] theorem latch_taken (p : Packet) : (s.latch p).taken = s.taken := rfl
@[simp] theorem latch_answered (p : Packet) : (s.latch p).answered = s.answered := rfl
@[simp] theorem latch_accepted (p : Packet) : (s.latch p).accepted = s.accepted := rfl
@[simp] theorem latch_inputs (p : Packet) : (s.latch p).inputs = s.inputs := rfl
@[simp] theorem latch_freeCount (p : Packet) : (s.latch p).freeCount = s.freeCount := rfl

/-! ### `record` -/

@[simp] theorem record_opc (m : Option Mark) : (s.record m).opc = s.opc := rfl
@[simp] theorem record_opa (m : Option Mark) : (s.record m).opa = s.opa := rfl
@[simp] theorem record_opb (m : Option Mark) : (s.record m).opb = s.opb := rfl
@[simp] theorem record_opm (m : Option Mark) : (s.record m).opm = s.opm := rfl
@[simp] theorem record_res (m : Option Mark) : (s.record m).res = s.res := rfl
@[simp] theorem record_busy (m : Option Mark) : (s.record m).busy = s.busy := rfl
@[simp] theorem record_rspValid (m : Option Mark) : (s.record m).rspValid = s.rspValid := rfl
@[simp] theorem record_work (m : Option Mark) : (s.record m).work = s.work := rfl
@[simp] theorem record_wait (m : Option Mark) : (s.record m).wait = s.wait := rfl
@[simp] theorem record_marks (m : Option Mark) : (s.record m).marks = s.marks ++ m.toList := rfl
@[simp] theorem record_taken (m : Option Mark) : (s.record m).taken = s.taken := rfl
@[simp] theorem record_answered (m : Option Mark) : (s.record m).answered = s.answered := rfl
@[simp] theorem record_accepted (m : Option Mark) : (s.record m).accepted = s.accepted := rfl
@[simp] theorem record_inputs (m : Option Mark) : (s.record m).inputs = s.inputs := rfl
@[simp] theorem record_freeCount (m : Option Mark) : (s.record m).freeCount = s.freeCount := rfl

/-! ### `start` -/

@[simp] theorem start_opc (p : Packet) : (s.start p).opc = s.opc := rfl
@[simp] theorem start_opa (p : Packet) : (s.start p).opa = s.opa := rfl
@[simp] theorem start_opb (p : Packet) : (s.start p).opb = s.opb := rfl
@[simp] theorem start_opm (p : Packet) : (s.start p).opm = s.opm := rfl
@[simp] theorem start_res (p : Packet) : (s.start p).res = s.res := rfl
@[simp] theorem start_busy (p : Packet) : (s.start p).busy = true := rfl
@[simp] theorem start_rspValid (p : Packet) : (s.start p).rspValid = s.rspValid := rfl
@[simp] theorem start_work (p : Packet) : (s.start p).work = s.work := rfl
@[simp] theorem start_wait (p : Packet) : (s.start p).wait = Config.extraLatency p.op p.a p.b p.m := rfl
@[simp] theorem start_marks (p : Packet) : (s.start p).marks = s.marks := rfl
@[simp] theorem start_taken (p : Packet) : (s.start p).taken = s.taken := rfl
@[simp] theorem start_answered (p : Packet) : (s.start p).answered = s.answered := rfl
@[simp] theorem start_accepted (p : Packet) : (s.start p).accepted = s.accepted + 1 := rfl
@[simp] theorem start_inputs (p : Packet) : (s.start p).inputs = s.inputs := rfl
@[simp] theorem start_freeCount (p : Packet) : (s.start p).freeCount = s.freeCount := rfl

/-! ### `accept` -/

@[simp] theorem accept_opc (p : Packet) : (s.accept p).opc = p.op := rfl
@[simp] theorem accept_opa (p : Packet) : (s.accept p).opa = p.a := rfl
@[simp] theorem accept_opb (p : Packet) : (s.accept p).opb = p.b := rfl
@[simp] theorem accept_opm (p : Packet) : (s.accept p).opm = p.m := rfl
@[simp] theorem accept_res (p : Packet) : (s.accept p).res = s.res := rfl
@[simp] theorem accept_busy (p : Packet) : (s.accept p).busy = true := rfl
@[simp] theorem accept_rspValid (p : Packet) : (s.accept p).rspValid = s.rspValid := rfl
@[simp] theorem accept_work (p : Packet) : (s.accept p).work = s.work := rfl
@[simp] theorem accept_wait (p : Packet) : (s.accept p).wait = Config.extraLatency p.op p.a p.b p.m := rfl
@[simp] theorem accept_marks (p : Packet) : (s.accept p).marks = s.marks ++ (packetMark p).toList := rfl
@[simp] theorem accept_taken (p : Packet) : (s.accept p).taken = s.taken := rfl
@[simp] theorem accept_answered (p : Packet) : (s.accept p).answered = s.answered := rfl
@[simp] theorem accept_accepted (p : Packet) : (s.accept p).accepted = s.accepted + 1 := rfl
@[simp] theorem accept_inputs (p : Packet) : (s.accept p).inputs = s.inputs := rfl
@[simp] theorem accept_freeCount (p : Packet) : (s.accept p).freeCount = s.freeCount := rfl

/-! ### `complete` -/

@[simp] theorem complete_opc (v : Word) : (s.complete v).opc = s.opc := rfl
@[simp] theorem complete_opa (v : Word) : (s.complete v).opa = s.opa := rfl
@[simp] theorem complete_opb (v : Word) : (s.complete v).opb = s.opb := rfl
@[simp] theorem complete_opm (v : Word) : (s.complete v).opm = s.opm := rfl
@[simp] theorem complete_res (v : Word) : (s.complete v).res = v := rfl
@[simp] theorem complete_busy (v : Word) : (s.complete v).busy = false := rfl
@[simp] theorem complete_rspValid (v : Word) : (s.complete v).rspValid = true := rfl
@[simp] theorem complete_work (v : Word) : (s.complete v).work = s.work := rfl
@[simp] theorem complete_wait (v : Word) : (s.complete v).wait = s.wait := rfl
@[simp] theorem complete_marks (v : Word) : (s.complete v).marks = s.marks := rfl
@[simp] theorem complete_taken (v : Word) : (s.complete v).taken = s.taken := rfl
@[simp] theorem complete_answered (v : Word) : (s.complete v).answered = s.answered := rfl
@[simp] theorem complete_accepted (v : Word) : (s.complete v).accepted = s.accepted := rfl
@[simp] theorem complete_inputs (v : Word) : (s.complete v).inputs = s.inputs := rfl
@[simp] theorem complete_freeCount (v : Word) : (s.complete v).freeCount = s.freeCount := rfl

/-! ### `take` -/

@[simp] theorem take_opc : s.take.opc = s.opc := rfl
@[simp] theorem take_opa : s.take.opa = s.opa := rfl
@[simp] theorem take_opb : s.take.opb = s.opb := rfl
@[simp] theorem take_opm : s.take.opm = s.opm := rfl
@[simp] theorem take_res : s.take.res = s.res := rfl
@[simp] theorem take_busy : s.take.busy = s.busy := rfl
@[simp] theorem take_rspValid : s.take.rspValid = false := rfl
@[simp] theorem take_work : s.take.work = s.work := rfl
@[simp] theorem take_wait : s.take.wait = s.wait := rfl
@[simp] theorem take_marks : s.take.marks = s.marks := rfl
@[simp] theorem take_taken : s.take.taken = s.taken ++ [s.res] := rfl
@[simp] theorem take_answered : s.take.answered = s.accepted := rfl
@[simp] theorem take_accepted : s.take.accepted = s.accepted := rfl
@[simp] theorem take_inputs : s.take.inputs = s.inputs := rfl
@[simp] theorem take_freeCount : s.take.freeCount = s.freeCount := rfl

/-! ### `resetEdge` -/

@[simp] theorem resetEdge_opc : s.resetEdge.opc = Config.unspecified 3 (s.freeCount + 14) := rfl
@[simp] theorem resetEdge_opa : s.resetEdge.opa = Config.unspecified 64 (s.freeCount + 15) := rfl
@[simp] theorem resetEdge_opb : s.resetEdge.opb = Config.unspecified 64 (s.freeCount + 16) := rfl
@[simp] theorem resetEdge_opm : s.resetEdge.opm = Config.unspecified 64 (s.freeCount + 17) := rfl
@[simp] theorem resetEdge_res : s.resetEdge.res = Config.unspecified 64 (s.freeCount + 18) := rfl
@[simp] theorem resetEdge_busy : s.resetEdge.busy = false := rfl
@[simp] theorem resetEdge_rspValid : s.resetEdge.rspValid = false := rfl
@[simp] theorem resetEdge_work : s.resetEdge.work = unspecifiedWork s.freeCount := rfl
@[simp] theorem resetEdge_wait : s.resetEdge.wait = 0 := rfl
@[simp] theorem resetEdge_marks : s.resetEdge.marks = s.marks := rfl
@[simp] theorem resetEdge_taken : s.resetEdge.taken = s.taken := rfl
@[simp] theorem resetEdge_answered : s.resetEdge.answered = s.answered := rfl
@[simp] theorem resetEdge_accepted : s.resetEdge.accepted = s.accepted := rfl
@[simp] theorem resetEdge_inputs : s.resetEdge.inputs = s.inputs := rfl
@[simp] theorem resetEdge_freeCount : s.resetEdge.freeCount = s.freeCount + 19 := rfl

/-! ### `waitOn` -/

@[simp] theorem waitOn_opc (k : Nat) : (s.waitOn k).opc = s.opc := rfl
@[simp] theorem waitOn_opa (k : Nat) : (s.waitOn k).opa = s.opa := rfl
@[simp] theorem waitOn_opb (k : Nat) : (s.waitOn k).opb = s.opb := rfl
@[simp] theorem waitOn_opm (k : Nat) : (s.waitOn k).opm = s.opm := rfl
@[simp] theorem waitOn_res (k : Nat) : (s.waitOn k).res = s.res := rfl
@[simp] theorem waitOn_busy (k : Nat) : (s.waitOn k).busy = s.busy := rfl
@[simp] theorem waitOn_rspValid (k : Nat) : (s.waitOn k).rspValid = s.rspValid := rfl
@[simp] theorem waitOn_work (k : Nat) : (s.waitOn k).work = s.work := rfl
@[simp] theorem waitOn_wait (k : Nat) : (s.waitOn k).wait = k := rfl
@[simp] theorem waitOn_marks (k : Nat) : (s.waitOn k).marks = s.marks := rfl
@[simp] theorem waitOn_taken (k : Nat) : (s.waitOn k).taken = s.taken := rfl
@[simp] theorem waitOn_answered (k : Nat) : (s.waitOn k).answered = s.answered := rfl
@[simp] theorem waitOn_accepted (k : Nat) : (s.waitOn k).accepted = s.accepted := rfl
@[simp] theorem waitOn_inputs (k : Nat) : (s.waitOn k).inputs = s.inputs := rfl
@[simp] theorem waitOn_freeCount (k : Nat) : (s.waitOn k).freeCount = s.freeCount := rfl
theorem waitOn_self : s.waitOn s.wait = s := rfl

/-! ### `setWork` -/

@[simp] theorem setWork_opc (w : Work) : (s.setWork w).opc = s.opc := rfl
@[simp] theorem setWork_opa (w : Work) : (s.setWork w).opa = s.opa := rfl
@[simp] theorem setWork_opb (w : Work) : (s.setWork w).opb = s.opb := rfl
@[simp] theorem setWork_opm (w : Work) : (s.setWork w).opm = s.opm := rfl
@[simp] theorem setWork_res (w : Work) : (s.setWork w).res = s.res := rfl
@[simp] theorem setWork_busy (w : Work) : (s.setWork w).busy = s.busy := rfl
@[simp] theorem setWork_rspValid (w : Work) : (s.setWork w).rspValid = s.rspValid := rfl
@[simp] theorem setWork_work (w : Work) : (s.setWork w).work = w := rfl
@[simp] theorem setWork_wait (w : Work) : (s.setWork w).wait = s.wait := rfl
@[simp] theorem setWork_marks (w : Work) : (s.setWork w).marks = s.marks := rfl
@[simp] theorem setWork_taken (w : Work) : (s.setWork w).taken = s.taken := rfl
@[simp] theorem setWork_answered (w : Work) : (s.setWork w).answered = s.answered := rfl
@[simp] theorem setWork_accepted (w : Work) : (s.setWork w).accepted = s.accepted := rfl
@[simp] theorem setWork_inputs (w : Work) : (s.setWork w).inputs = s.inputs := rfl
@[simp] theorem setWork_freeCount (w : Work) : (s.setWork w).freeCount = s.freeCount := rfl

/-! ### `loadCommand` -/

@[simp] theorem loadCommand_opc (p : Packet) : (s.loadCommand p).opc = p.op := rfl
@[simp] theorem loadCommand_opa (p : Packet) : (s.loadCommand p).opa = p.a := rfl
@[simp] theorem loadCommand_opb (p : Packet) : (s.loadCommand p).opb = p.b := rfl
@[simp] theorem loadCommand_opm (p : Packet) : (s.loadCommand p).opm = p.m := rfl
@[simp] theorem loadCommand_res (p : Packet) : (s.loadCommand p).res = s.res := rfl
@[simp] theorem loadCommand_busy (p : Packet) : (s.loadCommand p).busy = true := rfl
@[simp] theorem loadCommand_rspValid (p : Packet) : (s.loadCommand p).rspValid = false := rfl
@[simp] theorem loadCommand_work (p : Packet) : (s.loadCommand p).work = s.work := rfl
@[simp] theorem loadCommand_wait (p : Packet) : (s.loadCommand p).wait = 0 := rfl
@[simp] theorem loadCommand_marks (p : Packet) : (s.loadCommand p).marks = s.marks ++ (packetMark p).toList := rfl
@[simp] theorem loadCommand_taken (p : Packet) : (s.loadCommand p).taken = s.taken := rfl
@[simp] theorem loadCommand_answered (p : Packet) : (s.loadCommand p).answered = s.answered := rfl
@[simp] theorem loadCommand_accepted (p : Packet) : (s.loadCommand p).accepted = s.accepted + 1 := rfl
@[simp] theorem loadCommand_inputs (p : Packet) : (s.loadCommand p).inputs = s.inputs := rfl
@[simp] theorem loadCommand_freeCount (p : Packet) : (s.loadCommand p).freeCount = s.freeCount := rfl

/-! ### `quietEdge` -/

@[simp] theorem quietEdge_opc : s.quietEdge.opc = s.opc := rfl
@[simp] theorem quietEdge_opa : s.quietEdge.opa = s.opa := rfl
@[simp] theorem quietEdge_opb : s.quietEdge.opb = s.opb := rfl
@[simp] theorem quietEdge_opm : s.quietEdge.opm = s.opm := rfl
@[simp] theorem quietEdge_res : s.quietEdge.res = s.res := rfl
@[simp] theorem quietEdge_busy : s.quietEdge.busy = s.busy := rfl
@[simp] theorem quietEdge_rspValid : s.quietEdge.rspValid = s.rspValid := rfl
@[simp] theorem quietEdge_work : s.quietEdge.work = s.work := rfl
@[simp] theorem quietEdge_wait : s.quietEdge.wait = s.wait := rfl
@[simp] theorem quietEdge_marks : s.quietEdge.marks = s.marks := rfl
@[simp] theorem quietEdge_taken : s.quietEdge.taken = s.taken := rfl
@[simp] theorem quietEdge_answered : s.quietEdge.answered = s.answered := rfl
@[simp] theorem quietEdge_accepted : s.quietEdge.accepted = s.accepted := rfl
@[simp] theorem quietEdge_freeCount : s.quietEdge.freeCount = s.freeCount := rfl

theorem quietEdge_edgeIn : s.quietEdge.edgeIn = PortIn.quiet := by
  unfold quietEdge edgeIn
  split <;> simp

theorem quietEdge_popEdge : s.quietEdge.popEdge = s := by
  unfold quietEdge popEdge
  split
  · rename_i h
    rw [show ([] : List PortIn).tail = s.inputs from h.symm]
  · rfl

/-! ### Reading the registers -/

@[simp] theorem reg_zero : s.reg 0 = s.opa := rfl
@[simp] theorem reg_one : s.reg 1 = s.opb := rfl
@[simp] theorem reg_two : s.reg 2 = s.opm := rfl
@[simp] theorem reg_three : s.reg 3 = s.res := rfl
@[simp] theorem rspData_eq : s.rspData = s.res := rfl
theorem latched_eq : s.latched = packet s.opc s.opa s.opb s.opm := rfl

@[simp] theorem latched_popEdge : s.popEdge.latched = s.latched := rfl
@[simp] theorem latched_waitOn (k : Nat) : (s.waitOn k).latched = s.latched := rfl
@[simp] theorem latched_complete (v : Word) : (s.complete v).latched = s.latched := rfl
@[simp] theorem latched_setWork (w : Work) : (s.setWork w).latched = s.latched := rfl
@[simp] theorem latched_take : s.take.latched = s.latched := rfl

/-- ACCEPT and `loadCommand` latch the whole packet. -/
theorem latched_latch (p : Packet) : (s.latch p).latched = p := by
  rw [latched_eq, latch_opc, latch_opa, latch_opb, latch_opm, packet_fields]

theorem latched_accept (p : Packet) : (s.accept p).latched = p := by
  rw [latched_eq, accept_opc, accept_opa, accept_opb, accept_opm, packet_fields]

theorem latched_loadCommand (p : Packet) : (s.loadCommand p).latched = p := by
  rw [latched_eq, loadCommand_opc, loadCommand_opa, loadCommand_opb, loadCommand_opm, packet_fields]

end Sys2Proof.Machine.State
end

