-- ==== Sys2Proof/Laws/Meanings.lean ====
section
/-! SUPPORT. The contract tests and the outcomes to record, the shared end of a meaning, and once what any meaning does
when it answers a next state (45_command_protocol.md R163). -/

namespace Sys2Proof.Machine

theorem modulusFault_none {m : Word} : modulusFault m = none ↔ m ≠ 0 := by simp [modulusFault]

theorem modulusFault_some {m : Word} {f : Fault} : modulusFault m = some f ↔ m = 0 ∧ f = .m0 := by
  unfold modulusFault
  split <;> simp_all [eq_comm (a := Fault.m0)]

theorem candidateFault_none {n : Word} : candidateFault n = none ↔ n &&& 1 = 1 ∧ 3 < n := by
  simp [candidateFault]

theorem candidateFault_some {n : Word} {f : Fault} :
    candidateFault n = some f ↔ ¬(n &&& 1 = 1 ∧ 3 < n) ∧ f = .mrPrecondition := by
  unfold candidateFault
  split <;> simp_all [eq_comm (a := Fault.mrPrecondition)]

theorem packetMark_reserved {p : Packet} {op : Opcode} (h : decode p = .reserved op) :
    packetMark p = some (.refusal .reservedOpcode) := by simp [packetMark, h]

theorem packetMark_command {p : Packet} {i : Instr} (h : decode p = .command i) :
    packetMark p = (contractFault i).map .fault := by simp [packetMark, h]

@[simp] theorem endCommand_none (t : State) : endCommand none t = .next t := rfl

@[simp] theorem endCommand_some (f : Fault) (t : State) : endCommand (some f) t = .fault f := rfl

theorem endCommand_next {c : Option Fault} {t u : State} : endCommand c t = .next u ↔ c = none ∧ t = u := by
  cases c <;> simp

theorem endCommand_fault {c : Option Fault} {t : State} {f : Fault} : endCommand c t = .fault f ↔ c = some f := by
  cases c <;> simp

theorem endCommand_not_refused {c : Option Fault} {t : State} {r : Refusal} : endCommand c t ≠ .refused r := by
  cases c <;> simp

/-- The state a command in contract ends in: its own working registers, then COMPLETE with its value. -/
def finish (i : Instr) (s : State) : State :=
  match i with
  | .modadd a b m => s.complete (modAdd a b m)
  | .modsub a b m => s.complete (modSub a b m)
  | .modmul a b m => (s.setWork { s.work with mul := modMul a b m }).complete (modMul a b m).r
  | .modpow a b m => (s.setWork (modPow a b m s.work)).complete (modPow a b m s.work).pow.r
  | .millerRabin n => (s.setWork (millerRabin n s.work).2).complete (millerRabin n s.work).1.code

/-- Every meaning is its contract test and then its command's end. -/
theorem exec_eq_endCommand (i : Instr) (s : State) : exec i s = endCommand (contractFault i) (finish i s) := by
  cases i <;> rfl

/-- A command's end writes RES, the two flags and working registers, and nothing else. -/
theorem finish_eq (i : Instr) (s : State) : ∃ w v, finish i s = (s.setWork w).complete v := by
  cases i with
  | modadd a b m => exact ⟨s.work, modAdd a b m, rfl⟩
  | modsub a b m => exact ⟨s.work, modSub a b m, rfl⟩
  | modmul a b m => exact ⟨_, _, rfl⟩
  | modpow a b m => exact ⟨_, _, rfl⟩
  | millerRabin n => exact ⟨_, _, rfl⟩

/-- No meaning refuses: a refusal is the decoder's verdict on the packet. -/
theorem exec_not_refused (i : Instr) (s : State) (r : Refusal) : exec i s ≠ .refused r := by
  rw [exec_eq_endCommand]
  exact endCommand_not_refused

/-- At the edge a command is due it comes to its end, or the unit stays as it is. -/
theorem completeOrStay_exec (i : Instr) (s : State) :
    completeOrStay s (exec i s) = .next (if contractFault i = none then finish i s else s) := by
  rw [exec_eq_endCommand]
  cases contractFault i with
  | none => rfl
  | some f => rfl

/-- All a meaning can do when it answers a next state. -/
theorem exec_next {i : Instr} {s t : State} (h : exec i s = .next t) :
    contractFault i = none ∧ t = finish i s := by
  rw [exec_eq_endCommand] at h
  obtain ⟨hc, ht⟩ := endCommand_next.mp h
  exact ⟨hc, ht.symm⟩

end Sys2Proof.Machine
end

