-- ==== Sys2Proof/Laws/PerInstr.lean ====
section
/-! SUPPORT. Per command: the packet the encoder writes carries the command's own row of the opcode map
(30_encoding.md R73). -/

namespace Sys2Proof.Laws.OpcodeField

/-- The encoder writes the command's opcode number into field `op`. -/
def Statement (i : Instr) : Prop := (encode i).op = i.opcode

theorem modadd (a b m : Word) : Statement (.modadd a b m) := packet_op _ a b m

theorem modsub (a b m : Word) : Statement (.modsub a b m) := packet_op _ a b m

theorem modmul (a b m : Word) : Statement (.modmul a b m) := packet_op _ a b m

theorem modpow (a b m : Word) : Statement (.modpow a b m) := packet_op _ a b m

theorem millerRabin (n : Word) : Statement (.millerRabin n) := packet_op _ n 0 0

end Sys2Proof.Laws.OpcodeField
end

