-- ==== Sys2Proof/Laws/Run.lean ====
section
/-! SUPPORT. Runs of several edges, one edge at a time. -/

namespace Sys2Proof.Safety

open Sys2Proof.Machine

@[simp] theorem runEdges_zero (s : State) : runEdges 0 s = .next s := rfl

/-- A first edge that answers a next state, and then the rest of the run. -/
theorem runEdges_succ {s t : State} (k : Nat) (h : step s = .next t) : runEdges (k + 1) s = runEdges k t := by
  have h' : core.step s = _ := h
  simp only [runEdges, Host.Core.run, h']
  rfl

theorem runEdges_fault {s : State} {f : Fault} (k : Nat) (h : step s = .fault f) :
    runEdges (k + 1) s = .fault f := by
  have h' : core.step s = _ := h
  simp only [runEdges, Host.Core.run, h']
  rfl

theorem runEdges_refused {s : State} {r : Refusal} (k : Nat) (h : step s = .refused r) :
    runEdges (k + 1) s = .refused r := by
  have h' : core.step s = _ := h
  simp only [runEdges, Host.Core.run, h']
  rfl

/-- Runs compose. -/
theorem runEdges_add {s t : State} (j k : Nat) (h : runEdges j s = .next t) :
    runEdges (j + k) s = runEdges k t := by
  induction j generalizing s with
  | zero =>
    cases h
    rw [Nat.zero_add]
  | succ j ih =>
    rw [Nat.add_right_comm]
    cases hs : step s with
    | next u =>
      rw [runEdges_succ j hs] at h
      rw [runEdges_succ (j + k) hs]
      exact ih h
    | fault f =>
      rw [runEdges_fault j hs] at h
      cases h
    | refused r =>
      rw [runEdges_refused j hs] at h
      cases h

end Sys2Proof.Safety
end

