-- ==== Sys2Proof/Laws/Step.lean ====
section
/-! SUPPORT. Once what one edge can do (45_command_protocol.md R160): every later fact about `step` starts from
`step_cases`. -/

namespace Sys2Proof.Machine

theorem busyEdge_wait {s : State} {k : Nat} (h : s.wait = k + 1) : busyEdge s = .next (s.waitOn k) := by
  simp [busyEdge, h]

theorem busyEdge_command {s : State} {i : Instr} (hw : s.wait = 0) (h : decode s.latched = .command i) :
    busyEdge s = completeOrStay s (exec i s) := by
  simp [busyEdge, dueEdge, hw, h]

theorem busyEdge_reserved {s : State} {op : Opcode} (hw : s.wait = 0) (h : decode s.latched = .reserved op) :
    busyEdge s = .next s := by
  simp [busyEdge, dueEdge, hw, h]

/-- A command that has an outcome to record is never completed: at most its edges to wait get fewer. -/
theorem busyEdge_offence {s : State} (h : packetMark s.latched ≠ none) :
    busyEdge s = .next (s.waitOn (s.wait - 1)) := by
  cases hw : s.wait with
  | succ k => exact busyEdge_wait hw
  | zero =>
    have hs : s.waitOn (0 - 1) = s := (congrArg s.waitOn hw.symm).trans s.waitOn_self
    rw [hs]
    cases hd : decode s.latched with
    | reserved op => exact busyEdge_reserved hw hd
    | command i =>
      have hc : contractFault i ≠ none := by simpa [packetMark_command hd] using h
      rw [busyEdge_command hw hd, completeOrStay_exec, if_neg hc]

/-- All a busy edge can do: the command in flight waits, or is due and completes, or is due and has an
outcome recorded, and the unit stays as it is. It always answers a next state. -/
theorem busyEdge_cases (s : State) :
    (∃ k, s.wait = k + 1 ∧ busyEdge s = .next (s.waitOn k)) ∨
    (s.wait = 0 ∧ packetMark s.latched ≠ none ∧ busyEdge s = .next s) ∨
    (s.wait = 0 ∧ ∃ i, decode s.latched = .command i ∧ contractFault i = none ∧
      busyEdge s = .next (finish i s)) := by
  cases hw : s.wait with
  | succ k => exact .inl ⟨k, rfl, busyEdge_wait hw⟩
  | zero =>
    refine .inr ?_
    cases hd : decode s.latched with
    | reserved op => exact .inl ⟨rfl, by simp [packetMark_reserved hd], busyEdge_reserved hw hd⟩
    | command i =>
      by_cases hc : contractFault i = none
      · exact .inr ⟨rfl, i, rfl, hc, by rw [busyEdge_command hw hd, completeOrStay_exec, if_pos hc]⟩
      · refine .inl ⟨rfl, by simpa [packetMark_command hd] using hc, ?_⟩
        rw [busyEdge_command hw hd, completeOrStay_exec, if_neg hc]

/-- All an edge can do when it answers a next state: RESET, one of the three edges of BUSY, TAKE or a held
response, ACCEPT or an idle edge. -/
theorem step_cases {s t : State} (h : step s = .next t) :
    (s.edgeIn.rst = true ∧ t = s.popEdge.resetEdge) ∨
    (s.edgeIn.rst = false ∧ s.busy = true ∧
      ((∃ k, s.wait = k + 1 ∧ t = s.popEdge.waitOn k) ∨
        (s.wait = 0 ∧ packetMark s.latched ≠ none ∧ t = s.popEdge) ∨
        (s.wait = 0 ∧ ∃ i, decode s.latched = .command i ∧ contractFault i = none ∧
          t = finish i s.popEdge))) ∨
    (s.edgeIn.rst = false ∧ s.busy = false ∧ s.rspValid = true ∧ t = doneEdge s.edgeIn s.popEdge) ∨
    (s.edgeIn.rst = false ∧ s.busy = false ∧ s.rspValid = false ∧ t = idleEdge s.edgeIn s.popEdge) := by
  unfold step clockEdge at h
  cases hr : s.edgeIn.rst <;> cases hb : s.busy <;> cases hv : s.rspValid <;>
    simp only [hr, hb, hv, State.popEdge_busy, State.popEdge_rspValid, if_true, Bool.false_eq_true, if_false] at h
  case true.false.false | true.false.true | true.true.false | true.true.true =>
    cases h
    exact .inl ⟨rfl, rfl⟩
  case false.false.false =>
    cases h
    exact .inr (.inr (.inr ⟨rfl, rfl, rfl, rfl⟩))
  case false.false.true =>
    cases h
    exact .inr (.inr (.inl ⟨rfl, rfl, rfl, rfl⟩))
  case false.true.false | false.true.true =>
    refine .inr (.inl ⟨rfl, rfl, ?_⟩)
    obtain ⟨k, hw, he⟩ | ⟨hw, hm, he⟩ | ⟨hw, i, hd, hc, he⟩ := busyEdge_cases s.popEdge
    · cases he.symm.trans h
      exact .inl ⟨k, hw, rfl⟩
    · cases he.symm.trans h
      exact .inr (.inl ⟨hw, hm, rfl⟩)
    · cases he.symm.trans h
      exact .inr (.inr ⟨hw, i, hd, hc, rfl⟩)

/-! ### What an edge does, from its inputs -/

theorem step_reset {s : State} (h : s.edgeIn.rst = true) : step s = .next s.popEdge.resetEdge := by
  unfold step clockEdge
  rw [if_pos h]

theorem step_busy {s : State} (h : s.edgeIn.rst = false) (hb : s.busy = true) : step s = busyEdge s.popEdge := by
  unfold step clockEdge
  rw [if_neg (by simp [h]), if_pos (by simpa using hb)]

theorem step_done {s : State} (h : s.edgeIn.rst = false) (hb : s.busy = false) (hv : s.rspValid = true) :
    step s = .next (doneEdge s.edgeIn s.popEdge) := by
  unfold step clockEdge
  rw [if_neg (by simp [h]), if_neg (by simp [hb]), if_pos (by simpa using hv)]

theorem step_idle {s : State} (h : s.edgeIn.rst = false) (hb : s.busy = false) (hv : s.rspValid = false) :
    step s = .next (idleEdge s.edgeIn s.popEdge) := by
  unfold step clockEdge
  rw [if_neg (by simp [h]), if_neg (by simp [hb]), if_neg (by simp [hv])]

end Sys2Proof.Machine
end

