-- ==== Sys2Proof/Tests/Slice0.lean ====
section
/-! SUPPORT. Tests on small states, and for every statement with hypotheses a state and operands that meet them.
Expected values come from spec/95_test_vectors.md or from the rule named. -/

namespace Sys2Proof.Tests

open Sys2Proof.Machine Sys2Proof.Safety

/-! ### Helpers -/

/-- The next state of an outcome, if it is one. -/
def nextOf : Host.Outcome State Fault Refusal → Option State
  | .next t => some t
  | .fault _ => none
  | .refused _ => none

/-- The fault of an outcome, if it is one. -/
def faultOf : Host.Outcome State Fault Refusal → Option Fault
  | .next _ => none
  | .fault f => some f
  | .refused _ => none

/-- RES after a command on the state after reset. -/
def resultOf (i : Instr) : Option Word := (nextOf (exec i State.reset)).map State.res

/-- A unit in IDLE whose host drives `e` at the coming edge. -/
def idleWith (e : PortIn) : State := { State.reset with inputs := [e] }

/-- A unit that executes the packet `p` and is due at the coming edge. -/
def busyWith (p : Packet) : State := State.reset.loadCommand p

/-- A unit in DONE after MODADD 5 7 10, whose host drives `e` at the coming edge. -/
def doneWith (e : PortIn) : State :=
  { State.reset.latch (packet 0 5 7 10) with res := 2, rspValid := true, accepted := 1, inputs := [e] }

/-! ### Decoding: packets written out from the layout of 30 R70 and the opcode table -/

/-- op 000, a = 5, b = 7, m = 10, bit by bit. -/
theorem test_decode_modadd :
    decode 0b000_0000000000000000000000000000000000000000000000000000000000000101_0000000000000000000000000000000000000000000000000000000000000111_0000000000000000000000000000000000000000000000000000000000001010 =
      .command (.modadd 5 7 10) := by decide

/-- op 001, a = 5, b = 7, m = 10, bit by bit. -/
theorem test_decode_modsub :
    decode 0b001_0000000000000000000000000000000000000000000000000000000000000101_0000000000000000000000000000000000000000000000000000000000000111_0000000000000000000000000000000000000000000000000000000000001010 =
      .command (.modsub 5 7 10) := by decide

/-- op 010, a = 123456789, b = 987654321, m = 1000000007, bit by bit. -/
theorem test_decode_modmul :
    decode 0b010_0000000000000000000000000000000000000111010110111100110100010101_0000000000000000000000000000000000111010110111100110100010110001_0000000000000000000000000000000000111011100110101100101000000111 =
      .command (.modmul 123456789 987654321 1000000007) := by decide

/-- op 011, a = 2, b = 10, m = 1000, bit by bit. -/
theorem test_decode_modpow :
    decode 0b011_0000000000000000000000000000000000000000000000000000000000000010_0000000000000000000000000000000000000000000000000000000000001010_0000000000000000000000000000000000000000000000000000001111101000 =
      .command (.modpow 2 10 1000) := by decide

/-- op 100, a = 561, b = 0, m = 0, bit by bit. -/
theorem test_decode_millerRabin :
    decode 0b100_0000000000000000000000000000000000000000000000000000001000110001_0000000000000000000000000000000000000000000000000000000000000000_0000000000000000000000000000000000000000000000000000000000000000 =
      .command (.millerRabin 561) := by decide

/-- op 110, a = 1, b = 2, m = 3, bit by bit. -/
theorem test_decode_reserved :
    decode 0b110_0000000000000000000000000000000000000000000000000000000000000001_0000000000000000000000000000000000000000000000000000000000000010_0000000000000000000000000000000000000000000000000000000000000011 =
      .reserved 6 := by decide

/-- V-MUL-14 of 95_test_vectors.md, in the 49-digit form of 30 R72. -/
theorem test_decode_vector :
    decode 0x2_DEADBEEFCAFEBABE_0123456789ABCDEF_FFFFFFFFFFFFFFC5 =
      .command (.modmul 0xDEADBEEFCAFEBABE 0x0123456789ABCDEF 0xFFFFFFFFFFFFFFC5) := by decide

/-- The example of 30 R72, as 49 digits. -/
theorem test_packet_text :
    packetText 0x3_0000000000000002_000000000000000A_00000000000003E8 =
      [3] ++ List.replicate 15 0 ++ [2] ++ List.replicate 15 0 ++ [0xA] ++ List.replicate 13 0 ++
        [3, 0xE, 8] := by decide

/-- The table word of MODSUB: op = 1 in bits 194:192 of a number of 200 bits. -/
theorem test_decodeTableWord_modsub :
    decodeTableWord 200 0x1_0000000000000005_0000000000000007_000000000000000A = some (.modsub 5 7 10) := by
  decide

/-- A number of more than 195 bits is no packet (30 R72). -/
theorem test_decodeTableWord_too_wide :
    decodeTableWord 200 0x8_0000000000000000_0000000000000000_0000000000000000 = none := by decide

/-! ### Well-formedness (30 R78): one ill-formed host line for each check, and a good one -/

theorem test_line_arity_refused :
    HostLine.wellFormed { name := .mod_add, operands := [1, 2] } = false ∧
      assemble { name := .mod_add, operands := [1, 2] } = none := by decide

theorem test_line_arity_refused_miller_rabin :
    HostLine.wellFormed { name := .miller_rabin, operands := [5, 0, 0] } = false := by decide

theorem test_line_range_refused :
    HostLine.wellFormed { name := .mod_mul, operands := [1, 18446744073709551616, 3] } = false ∧
      assemble { name := .mod_mul, operands := [1, 18446744073709551616, 3] } = none := by decide

theorem test_line_largest_operand :
    assemble { name := .mod_mul, operands := [1, 18446744073709551615, 3] } =
      some (.modmul 1 0xFFFFFFFFFFFFFFFF 3) := by decide

theorem test_line_miller_rabin :
    (assemble { name := .miller_rabin, operands := [5] }).map encode =
      some 0x4_0000000000000005_0000000000000000_0000000000000000 := by decide

/-- Every command is well formed (30 R76). -/
theorem test_every_command_wellFormed (i : Instr) : i.wellFormed = true := by cases i <;> rfl

/-! ### The five commands (vectors of 95_test_vectors.md) -/

/-- V-ADD-10: the true sum does not fit in 64 bits. -/
theorem test_modadd_no_wrap :
    resultOf (.modadd 0xFFFFFFFFFFFFFFFE 0xFFFFFFFFFFFFFFFE 0xFFFFFFFFFFFFFFFF) =
      some 0xFFFFFFFFFFFFFFFD := by decide

/-- V-ADD-17: the first value that takes the subtract branch. -/
theorem test_modadd_boundary :
    resultOf (.modadd 0xFFFFFFFFFFFFFFFE 1 0xFFFFFFFFFFFFFFFF) = some 0 := by decide

/-- V-SUB-3: borrow. -/
theorem test_modsub_borrow : resultOf (.modsub 5 7 10) = some 8 := by decide

/-- V-SUB-13: the comparison is made after reduction. -/
theorem test_modsub_reduced_first :
    resultOf (.modsub 3 0xFFFFFFFFFFFFFFFF 0xFFFFFFFFFFFFFFFE) = some 2 := by decide

/-- V-MUL-6, traced in 42 R127. -/
theorem test_modmul_trace : resultOf (.modmul 6 7 10) = some 2 := by decide

/-- V-MUL-12: a modulus above 2^63. -/
theorem test_modmul_large :
    resultOf (.modmul 0x8000000000000001 0x8000000000000001 0x8000000000000003) = some 4 := by decide +kernel

/-- V-POW-21: the exponent is not reduced. -/
theorem test_modpow_exponent_not_reduced : resultOf (.modpow 7 13 11) = some 2 := by decide +kernel

/-- V-POW-4, conflict C1: b = 0 and m = 1 give 1. -/
theorem test_modpow_zero_exponent_modulus_one : resultOf (.modpow 5 0 1) = some 1 := by decide

/-- V-MR-1, traced in 44 R156. -/
theorem test_millerRabin_five : resultOf (.millerRabin 5) = some 1 := by decide +kernel

/-- V-MR-9: no base passes. -/
theorem test_millerRabin_composite : resultOf (.millerRabin 21) = some 0 := by decide +kernel

/-! ### Out of contract (program P6 of 95_test_vectors.md) -/

theorem test_m0 : faultOf (exec (.modpow 5 0 0) State.reset) = some .m0 := by decide

theorem test_mr_precondition :
    faultOf (exec (.millerRabin 3) State.reset) = some .mrPrecondition ∧
      faultOf (exec (.millerRabin 10) State.reset) = some .mrPrecondition := by decide

/-- `op` = 7 with m = 0 is refused, not fault M0 (60 R174). -/
theorem test_reserved_before_modulus :
    (nextOf (step (idleWith (.present 0x7_FFFFFFFFFFFFFFFF_FFFFFFFFFFFFFFFF_0000000000000000)))).map State.marks =
      some [.refusal .reservedOpcode] := by decide

/-- P6: after the offence the unit accepts nothing, BUSY stays 1. -/
theorem test_offence_stays_busy :
    (nextOf (step { busyWith (packet 1 2 1 0) with inputs := [.present (packet 0 1 1 10)] })).map
      (fun t => (t.busy, t.opc, t.rspValid, t.marks)) = some (true, 1, false, [.fault .m0]) := by decide

/-! ### Edges -/

/-- 45 R161: ACCEPT latches the packet and sets BUSY. -/
theorem test_accept :
    (nextOf (step (idleWith (.present 0x0_0000000000000005_0000000000000007_000000000000000A)))).map
      (fun t => (t.busy, t.opc, t.opa, t.opb, t.opm)) = some (true, 0, 5, 7, 10) := by decide

/-- 60 R172, R175: an offending command is accepted like any other and its outcome recorded. -/
theorem test_accept_records :
    (nextOf (step (idleWith (.present 0x1_0000000000000001_0000000000000002_0000000000000000)))).map
      (fun t => (t.busy, t.marks)) = some (true, [.fault .m0]) := by decide

/-- 70 R190, R191: a reset while BUSY abandons the command and keeps the mark. -/
theorem test_reset_in_flight :
    (nextOf (step { busyWith 0 with inputs := [.reset], marks := [.fault .m0] })).map
      (fun t => (t.busy, t.rspValid, t.marks, t.taken)) = some (false, false, [.fault .m0], []) := by decide

/-- 45 R164: TAKE hands over RES. -/
theorem test_take :
    (nextOf (step (doneWith .takeRsp))).map (fun t => (t.rspValid, t.taken, t.res)) = some (false, [2], 2) := by
  decide

/-- 45 R164: an untaken response is held, also while a new command is presented. -/
theorem test_hold :
    (nextOf (step (doneWith (.present 0x0_0000000000000001_0000000000000001_000000000000000A)))).map
      (fun t => (t.rspValid, t.busy, t.res, t.opa)) = some (true, false, 2, 5) := by decide

/-- The very next step after `withFetchWord` executes the command (45 R162, R163). -/
theorem test_withFetchWord :
    (nextOf (step (State.reset.withFetchWord 200 0x1_0000000000000005_0000000000000007_000000000000000A))).map
      (fun t => (t.res, t.busy, t.rspValid)) = some (8, false, true) := by decide

/-! ### Witnesses: the hypotheses of every statement are met somewhere, each clause at a boundary -/

theorem witness_DecodeOfEncodeIsTheCommand : (Instr.modadd 0 0xFFFFFFFFFFFFFFFF 1).wellFormed = true := by decide

theorem witness_EncodeOfDecodeIsThePacket :
    (decode (packet 3 1 2 3) = .command (.modpow 1 2 3) ∧ (packet 3 1 2 3).op ≠ 4) ∧
      (decode (packet 4 9 1 1) = .command (.millerRabin 9) ∧ (packet 4 9 1 1).op = 4) := by decide

theorem witness_ReservedOpcodesAreRefused (op : Opcode) (h : op = 5 ∨ op = 6 ∨ op = 7) :
    (let s := idleWith (.present (packet op 0 0 0))
     s.edgeIn.rst = false ∧ s.edgeIn.cmdValid = true ∧ s.cmdReady = true ∧
       (s.edgeIn.cmd.op = 5 ∨ s.edgeIn.cmd.op = 6 ∨ s.edgeIn.cmd.op = 7)) ∧
      (let s := busyWith (packet op 0 0 0)
       s.busy = true ∧ s.edgeIn.rst = false ∧ (s.opc = 5 ∨ s.opc = 6 ∨ s.opc = 7)) := by
  obtain rfl | rfl | rfl := h <;> decide

/-- The smallest and the largest modulus meet m > 0, for every statement with that hypothesis. -/
theorem witness_modulus : (1 : Word) ≠ 0 ∧ (0xFFFFFFFFFFFFFFFF : Word) ≠ 0 := by decide

theorem witness_ModAddStepsNeverWrap :
    ((10 : Word) ≠ 0 ∧ (10 : Word) - remainder 5 10 ≤ remainder 5 10) ∧
      ¬ (10 : Word) - remainder 4 10 ≤ remainder 5 10 := by decide

theorem witness_ModSubStepsNeverWrap :
    (remainder 5 10 < remainder 6 10) ∧ ¬ remainder 5 10 < remainder 5 10 := by decide

theorem witness_ModSubValue :
    remainder 15 10 = remainder 5 10 ∧ remainder 10 10 = 0 ∧ (remainder 20 10 = 0 ∧ remainder 1 10 ≠ 0) := by
  decide

theorem witness_ModMulLoopInvariants :
    (MulRegs.mk 9 1 9).a.toNat < (10 : Word).toNat ∧ (MulRegs.mk 9 1 9).r.toNat < (10 : Word).toNat := by decide

theorem witness_ModMulIterationCount : 0 < Nat.size ((7 : Word).toNat % (10 : Word).toNat) := by
  rw [Nat.size_pos]
  decide

theorem witness_ModPowLoopInvariants :
    let w : Work := { Work.zero with pow := { a := 9, b := 1, r := 1 } }
    w.pow.a.toNat < (10 : Word).toNat ∧ w.pow.b ≠ 0 := by decide

theorem witness_ModPowValue : (1 : Word) ≠ 0 ∧ (0xFFFFFFFFFFFFFFFF : Word) ≠ 0 := by decide

/-- With q = 1, n = 7 and base 2, x is 2. -/
theorem witness_ModPowIsPure :
    let w : Work := { Work.zero with mr := { Work.zero.mr with n := 7, temp := 1, x := 2 } }
    w.mr.x = (modPow 2 w.mr.temp w.mr.n w).pow.r := by decide

theorem witness_DecompositionValues :
    2 ≤ (2 : Word).toNat ∧ ((5 : Word).toNat % 2 = 1 ∧ 3 < (5 : Word).toNat) ∧
      (decompose 0x8000000000000001 Work.zero.mr).k.toNat = 64 := by decide +kernel

theorem witness_InnerExponentIsPowerOfTwo :
    (9 : Word).toNat % 2 = 1 ∧ 3 < (9 : Word).toNat ∧ 0 < twoExponent 9 ∧ 2 < twoExponent 9 := by decide

/-- The smallest and the largest candidate in contract: MillerRabinClosedForm, MillerRabinCompletes. -/
theorem witness_candidate :
    ((5 : Word).toNat % 2 = 1 ∧ 3 < (5 : Word).toNat) ∧
      ((0xFFFFFFFFFFFFFFFF : Word).toNat % 2 = 1 ∧ 3 < (0xFFFFFFFFFFFFFFFF : Word).toNat) := by decide

theorem witness_FirstPassingBaseEndsTheLoop :
    (millerRabin 9 Work.zero).1 = .prime ∧ (millerRabin 21 Work.zero).1 = .composite := by decide +kernel

theorem witness_EveryPrimeIsAnsweredPrime : (5 : Word).toNat.Prime ∧ 3 < (5 : Word).toNat := by
  refine ⟨?_, by decide⟩
  show Nat.Prime 5
  norm_num

theorem witness_CompositeAnswerIsConclusive :
    ∃ t, exec (.millerRabin 21) State.reset = .next t ∧ t.res = 0 :=
  ⟨_, rfl, by decide +kernel⟩

theorem witness_CandidateOutOfContractFaults :
    ((4 : Word).toNat % 2 = 0 ∨ (4 : Word).toNat ≤ 3) ∧ ((3 : Word).toNat % 2 = 0 ∨ (3 : Word).toNat ≤ 3) := by
  decide

theorem witness_OutcomeTableIsComplete :
    (packet 0 1 1 0).op.toNat ≤ 3 ∧ (packet 3 1 1 1).op.toNat ≤ 3 ∧ (packet 4 3 0 0).op.toNat = 4 ∧
      (packet 4 4 0 0).op.toNat = 4 ∧ (packet 4 5 0 0).op.toNat = 4 ∧ 5 ≤ (packet 5 1 1 0).op.toNat := by decide

theorem witness_ResultDependsOnCommandAlone :
    ∃ s' t', exec (.modadd 5 7 10) State.reset = .next s' ∧
      exec (.modadd 5 7 10) { State.reset with res := 99, opa := 1 } = .next t' :=
  ⟨_, _, rfl, rfl⟩

theorem witness_StepExecutesTheLatchedCommand :
    let s := busyWith (packet 1 5 7 10)
    s.busy = true ∧ s.edgeIn.rst = false ∧ s.wait = 0 ∧ decode s.latched = .command (.modsub 5 7 10) ∧
      ∃ t, exec (.modsub 5 7 10) s.popEdge = .next t :=
  ⟨rfl, rfl, rfl, rfl, _, rfl⟩

/-- The clause of a command without a COMPLETE. -/
theorem witness_StepExecutesTheLatchedCommand_fault :
    let s := busyWith (packet 1 5 7 0)
    s.busy = true ∧ s.edgeIn.rst = false ∧ s.wait = 0 ∧ decode s.latched = .command (.modsub 5 7 0) ∧
      exec (.modsub 5 7 0) s.popEdge = .fault .m0 := ⟨rfl, rfl, rfl, rfl, rfl⟩

theorem witness_FetchedWordRunsAtTheNextStep :
    decodeTableWord 200 0x2_0000000000000006_0000000000000007_000000000000000A = some (.modmul 6 7 10) ∧
      (∃ t, exec (.modmul 6 7 10) State.reset = .next t) ∧
      decodeTableWord 200 0x1_0000000000000000_0000000000000000_0000000000000000 = some (.modsub 0 0 0) ∧
      exec (.modsub 0 0 0) State.reset = .fault .m0 := ⟨rfl, ⟨_, rfl⟩, rfl, rfl⟩

theorem witness_BusyEdgeWaits :
    let s := (busyWith (packet 1 5 7 10)).waitOn 1
    s.busy = true ∧ s.edgeIn.rst = false ∧ s.wait = 0 + 1 ∧ packetMark s.latched = none := by decide

/-- Each of the five values of OPC meets the hypotheses, with the operands 5, 7, 10. -/
theorem witness_CompleteWritesTheSelectedFunction :
    ∀ op ∈ ([0, 1, 2, 3, 4] : List Opcode),
      let s := busyWith (packet op 5 7 10)
      s.busy = true ∧ s.edgeIn.rst = false ∧ s.wait = 0 ∧ packetMark s.latched = none ∧ s.opc = op := by decide

/-- AcceptLatchesThePacket, AcceptRecordsTheOutcome: an IDLE unit, and one whose `cmd_ready` is 0. -/
theorem witness_accept :
    (let s := idleWith (.present (packet 1 5 7 10))
     s.edgeIn.rst = false ∧ s.edgeIn.cmdValid = true ∧ s.cmdReady = true) ∧
      (busyWith (packet 1 5 7 10)).cmdReady = false ∧ (doneWith .quiet).cmdReady = false := by decide

/-- A fault to record, a refusal to record, nothing to record and due, nothing to record and not due. -/
theorem witness_OffendingCommandNeverCompletes :
    (let s := busyWith (packet 1 5 7 0)
     s.busy = true ∧ s.edgeIn.rst = false ∧ packetMark s.latched ≠ none) ∧
      packetMark (busyWith (packet 5 5 7 0)).latched ≠ none ∧
      packetMark (busyWith (packet 4 5 7 0)).latched = none ∧
      ((busyWith (packet 4 5 7 0)).waitOn 1).wait ≠ 0 := by decide

/-- MODSUB 1 2 0 presented in IDLE, one quiet edge, and a reset. -/
theorem witness_OnlyResetRecoversFromAnOffence :
    let p := packet 1 1 2 0
    let s : State := { State.reset with inputs := PortIn.present p :: ([PortIn.quiet] ++ PortIn.reset :: []) }
    s.cmdReady = true ∧ packetMark p = some (.fault .m0) ∧ (PortIn.present p).rst = false ∧
      (PortIn.present p).cmdValid = true ∧ (PortIn.present p).cmd = p ∧
      (∀ e ∈ [PortIn.quiet], e.rst = false) ∧ PortIn.reset.rst = true := by decide

/-- RecordedOutcomesStay, with an edge of each clause. -/
theorem witness_RecordedOutcomesStay :
    (∃ t, step (idleWith .quiet) = .next t) ∧ ∃ t, step (idleWith (.present (packet 0 1 2 0))) = .next t :=
  ⟨⟨_, rfl⟩, _, rfl⟩

/-- TakeHandsOverTheResponse, and ResponsesAreTakenOneAtATime at the same two states. -/
theorem witness_TakeHandsOverTheResponse :
    (let s := doneWith .takeRsp
     s.edgeIn.rst = false ∧ s.busy = false ∧ s.rspValid = true ∧ s.edgeIn.rspReady = true) ∧
      (doneWith .quiet).edgeIn.rspReady = false := by decide

theorem witness_ResponsesAreTakenOneAtATime :
    (∃ t, step (doneWith .takeRsp) = .next t) ∧ ∃ t, step (doneWith .quiet) = .next t :=
  ⟨⟨_, rfl⟩, _, rfl⟩

theorem witness_IdleUnitWaits :
    let s := idleWith .takeRsp
    s.edgeIn.rst = false ∧ s.edgeIn.cmdValid = false ∧ s.cmdReady = true := by decide

theorem witness_ResetEdgeClearsTheFlags :
    ({ busyWith (packet 3 1 2 3) with inputs := [PortIn.reset] } : State).edgeIn.rst = true := by decide

/-- One unit busy, one with an untaken response. -/
theorem witness_ResetLeavesNoTrace :
    let s : State := { busyWith (packet 3 1 2 3) with inputs := [PortIn.reset] }
    let t := doneWith .reset
    s.edgeIn.rst = true ∧ t.edgeIn.rst = true ∧ s.inputs.tail = t.inputs.tail ∧ s.taken = t.taken ∧
      s.marks = t.marks ∧ s.accepted = t.accepted ∧ s.answered = t.answered := by decide

/-- An IDLE, a BUSY and a DONE unit whose flags are exclusive and whose next edge answers a next state. -/
theorem witness_OnlyListedTransitions :
    (FlagsExclusive (idleWith .quiet) ∧ ∃ t, step (idleWith .quiet) = .next t) ∧
      (FlagsExclusive (busyWith (packet 0 5 7 10)) ∧ ∃ t, step (busyWith (packet 0 5 7 10)) = .next t) ∧
      (FlagsExclusive (doneWith .takeRsp) ∧ ∃ t, step (doneWith .takeRsp) = .next t) :=
  ⟨⟨by simp [FlagsExclusive, idleWith, State.reset], _, rfl⟩,
    ⟨by simp [FlagsExclusive, busyWith], _, rfl⟩,
    ⟨by simp [FlagsExclusive, doneWith, State.reset], _, rfl⟩⟩

/-- A unit in DONE that meets the invariant with a response standing, and takes a step. -/
theorem witness_StepKeepsInvariant : Inv (doneWith .takeRsp) ∧ ∃ t, step (doneWith .takeRsp) = .next t := by
  refine ⟨⟨?_, ?_, ?_⟩, _, rfl⟩
  · simp [FlagsExclusive, doneWith, State.reset]
  · intro h
    exact Bool.noConfusion h
  · intro _
    rfl

/-- Two different states that are the same for the host. -/
theorem witness_HiddenRegistersAreNotObservable :
    SameForHost State.reset { State.reset with opa := 7, res := 9, freeCount := 3 } ∧
      State.reset ≠ { State.reset with opa := 7, res := 9, freeCount := 3 } :=
  ⟨⟨rfl, rfl, by decide, by decide, rfl, rfl, rfl, rfl, rfl⟩, by decide⟩

/-- MODADD 5 7 10, presented in IDLE, its latency over without reset, and taken. -/
theorem witness_ProtocolRefinesAtomicIssue :
    let p := packet 0 5 7 10
    let edges := List.replicate (Config.latency p.op p.a p.b p.m) PortIn.quiet
    let s : State := { State.reset with inputs := PortIn.present p :: (edges ++ PortIn.takeRsp :: []) }
    s.cmdReady = true ∧ issue p = .ok 2 ∧ (PortIn.present p).rst = false ∧ (PortIn.present p).cmdValid = true ∧
      (PortIn.present p).cmd = p ∧ edges.length = Config.latency p.op p.a p.b p.m ∧
      (∀ e ∈ edges, e.rst = false) ∧ PortIn.takeRsp.rst = false ∧ PortIn.takeRsp.rspReady = true ∧
      s.inputs = PortIn.present p :: (edges ++ PortIn.takeRsp :: []) := by
  refine ⟨rfl, rfl, rfl, rfl, rfl, List.length_replicate, ?_, rfl, rfl, rfl⟩
  intro e he
  rw [List.eq_of_mem_replicate he]
  rfl

theorem witness_CommandsAreAnsweredInOrder :
    let ps := [packet 0 5 7 10, packet 1 5 7 10]
    let s : State := { State.reset with inputs := hostScript ps }
    s.cmdReady = true ∧ List.Forall₂ (fun p v => issue p = .ok v) ps [2, 8] ∧ s.inputs = hostScript ps ++ [] ∧
      s.marks = [] ∧ ps ≠ [] := by
  refine ⟨rfl, .cons rfl (.cons rfl .nil), ?_, rfl, by simp⟩
  rw [List.append_nil]

/-- Program P4: MODPOW presented, a reset, then MODADD 5 7 10 presented, its latency over, and taken. -/
theorem witness_RunEndsWithTheLastResponse :
    let p := packet 3 2 10 1000
    let q := packet 0 5 7 10
    let edges' := List.replicate (Config.latency q.op q.a q.b q.m) PortIn.quiet
    let s : State := { State.reset with
      inputs := PortIn.present p :: ([] ++ PortIn.reset :: PortIn.present q :: (edges' ++ PortIn.takeRsp :: [])) }
    s.cmdReady = true ∧ s.marks = [] ∧ (∃ u, issue p = .ok u) ∧ issue q = .ok 2 ∧
      (PortIn.present p).rst = false ∧ (PortIn.present p).cmdValid = true ∧ (PortIn.present p).cmd = p ∧
      PortIn.reset.rst = true ∧ edges'.length = Config.latency q.op q.a q.b q.m ∧
      (∀ e ∈ edges', e.rst = false) ∧ PortIn.takeRsp.rst = false ∧ PortIn.takeRsp.rspReady = true := by
  refine ⟨rfl, rfl, ⟨_, rfl⟩, rfl, rfl, rfl, rfl, rfl, List.length_replicate, ?_, rfl, rfl⟩
  intro e he
  rw [List.eq_of_mem_replicate he]
  rfl

/-- An edge of each of the three kinds, from states whose counts are right. -/
theorem witness_CountsFollowTheProtocol :
    let a := idleWith (.present (packet 0 1 2 3))
    let d := doneWith .takeRsp
    let b := busyWith (packet 0 1 2 3)
    (CountsRight a ∧ (nextOf (step a)).map (fun t => (t.accepted, t.answered)) = some (1, 0)) ∧
      (CountsRight d ∧ (nextOf (step d)).map (fun t => (t.accepted, t.answered)) = some (1, 1)) ∧
      (CountsRight b ∧ (nextOf (step b)).map (fun t => (t.accepted, t.answered)) = some (1, 0)) := by
  refine ⟨⟨⟨by decide, by decide⟩, by decide⟩, ⟨⟨by decide, by decide⟩, by decide⟩, ⟨⟨by decide, by decide⟩, by decide⟩⟩

/-! ### The two machine-level answers the source gets wrong -/

/-- V-MR-3, conflict C3: the composite 9 is answered PRIME, through the whole machine. -/
theorem test_step_millerRabin_nine :
    (nextOf (step (busyWith 0x4_0000000000000009_FFFFFFFFFFFFFFFF_0000000000000000))).map State.res = some 1 := by
  decide +kernel

end Sys2Proof.Tests
end

section
/-! PROOFS. The identity of the unit (00_scope.md R2). -/

namespace Sys2Proof.Proofs

/-- The recorded operation set lists the mnemonics in the order of the opcode map (R2, 30 R73). -/
theorem operations_getElem?_opcode (i : Instr) :
    Config.identity.operations[i.opcode.toNat]? = some i.mnemonic := by
  cases i with
  | modadd a b m => rfl
  | modsub a b m => rfl
  | modmul a b m => rfl
  | modpow a b m => rfl
  | millerRabin n => rfl

/-- Settles O58: the fields of the identity are as R2 records them, and the operation set follows the
opcode map. -/
theorem identityIsRecorded : Obligations.IdentityIsRecorded :=
  ⟨rfl, rfl, rfl, rfl, rfl, operations_getElem?_opcode⟩

end Sys2Proof.Proofs
end

section
/-! PROOFS. The values of ModAdd, ModSub, ModMul and ModPow in unbounded integers (40_modadd.md R103, 41_modsub.md
R114, 42_modmul.md R124, 43_modpow.md R134). -/

namespace Sys2Proof.Proofs

open Sys2Proof.Machine

/-! ### Primitives -/

theorem bit0_eq_true_iff (a : Word) : bit0 a = true ↔ a.toNat % 2 = 1 := by
  simp [bit0, ← BitVec.toNat_inj]

theorem toNat_pos_of_ne_zero {m : Word} (hm : m ≠ 0) : 0 < m.toNat :=
  Nat.pos_of_ne_zero fun h => hm (BitVec.eq_of_toNat_eq h)

@[simp] theorem remainder_toNat (a m : Word) : (remainder a m).toNat = a.toNat % m.toNat := BitVec.toNat_umod

/-- Shifting right by one, as the loops of ModMul and ModPow do, halves. -/
theorem shiftRight_one_toNat (b : Word) : (b >>> 1).toNat = b.toNat / 2 := by
  simp [Nat.shiftRight_eq_div_pow]

/-! ### ModAdd and ModSub -/

/-- The difference `t = m - b` of ModAdd and ModSub does not wrap (R102, R112). -/
theorem sub_remainder_toNat (b : Word) {m : Word} (hm : m ≠ 0) :
    (m - remainder b m).toNat = m.toNat - b.toNat % m.toNat := by
  have hle : remainder b m ≤ m := by
    rw [BitVec.le_def, remainder_toNat]
    exact (Nat.mod_lt _ (toNat_pos_of_ne_zero hm)).le
  rw [BitVec.toNat_sub_of_le hle, remainder_toNat]

/-- ModAdd subtracts m once exactly when the sum of the remainders reaches it (R101, R102). -/
theorem modAdd_toNat (a b : Word) {m : Word} (hm : m ≠ 0) :
    (modAdd a b m).toNat = (a.toNat + b.toNat) % m.toNat := by
  have hpos := toNat_pos_of_ne_zero hm
  have ha := Nat.mod_lt a.toNat hpos
  have hb := Nat.mod_lt b.toNat hpos
  have hlt := m.isLt
  have ht := sub_remainder_toNat b hm
  simp only [modAdd, BitVec.le_def, ht, remainder_toNat]
  split
  · next h =>
    have hmod := Nat.add_mod_add_of_le_add_mod (a := a.toNat) (b := b.toNat) (c := m.toNat) (by omega)
    rw [BitVec.toNat_sub_of_le (by rwa [BitVec.le_def, ht, remainder_toNat]), ht, remainder_toNat]
    omega
  · next h =>
    have hmod := Nat.add_mod_of_add_mod_lt (a := a.toNat) (b := b.toNat) (c := m.toNat) (by omega)
    rw [BitVec.toNat_add_of_lt (by simp only [remainder_toNat]; omega), hmod]
    simp only [remainder_toNat]

theorem modAdd_lt (a b : Word) {m : Word} (hm : m ≠ 0) : (modAdd a b m).toNat < m.toNat := by
  rw [modAdd_toNat a b hm]
  exact Nat.mod_lt _ (toNat_pos_of_ne_zero hm)

/-- ModSub adds m exactly when the first remainder is the smaller one (R111, R112). -/
theorem modSub_toNat (a b : Word) {m : Word} (hm : m ≠ 0) :
    (modSub a b m).toNat = (a.toNat % m.toNat + m.toNat - b.toNat % m.toNat) % m.toNat := by
  have hpos := toNat_pos_of_ne_zero hm
  have ha := Nat.mod_lt a.toNat hpos
  have hb := Nat.mod_lt b.toNat hpos
  have hlt := m.isLt
  have ht := sub_remainder_toNat b hm
  simp only [modSub, BitVec.lt_def, remainder_toNat]
  split
  · next h =>
    rw [BitVec.toNat_add_of_lt (by rw [ht, remainder_toNat]; omega), ht, remainder_toNat,
      Nat.mod_eq_of_lt (by omega : a.toNat % m.toNat + m.toNat - b.toNat % m.toNat < m.toNat)]
    omega
  · next h =>
    have hlt' : a.toNat % m.toNat - b.toNat % m.toNat < m.toNat := by omega
    rw [BitVec.toNat_sub_of_le (by simp only [BitVec.le_def, remainder_toNat]; omega), remainder_toNat,
      remainder_toNat, Nat.sub_add_comm (by omega), Nat.add_mod_right, Nat.mod_eq_of_lt hlt']

/-! ### ModMul -/

/-- One iteration accumulates the multiplicand when bit 0 is set, and stays below m (R121). -/
theorem mulIter_r_toNat {m : Word} (hm : m ≠ 0) {w : MulRegs} (hr : w.r.toNat < m.toNat) :
    (mulIter m w).r.toNat = (w.r.toNat + w.a.toNat * (w.b.toNat % 2)) % m.toNat := by
  by_cases h : bit0 w.b = true
  · simp [mulIter, h, modAdd_toNat _ _ hm, (bit0_eq_true_iff _).mp h]
  · have h0 : w.b.toNat % 2 = 0 := Nat.mod_two_ne_one.mp (mt (bit0_eq_true_iff _).mpr h)
    simp [mulIter, h, h0, Nat.mod_eq_of_lt hr]

/-- The loop invariant of R122: every iteration keeps `mul_r + mul_a * mul_b` modulo m. -/
theorem mulIter_modEq {m : Word} (hm : m ≠ 0) {w : MulRegs} (hr : w.r.toNat < m.toNat) :
    (mulIter m w).r.toNat + (mulIter m w).a.toNat * (mulIter m w).b.toNat ≡
      w.r.toNat + w.a.toNat * w.b.toNat [MOD m.toNat] := by
  rw [mulIter_r_toNat hm hr, mulIter_a, mulIter_b, modAdd_toNat _ _ hm, shiftRight_one_toNat]
  calc _ ≡ (w.r.toNat + w.a.toNat * (w.b.toNat % 2)) + (w.a.toNat + w.a.toNat) * (w.b.toNat / 2) [MOD m.toNat] :=
        (Nat.mod_modEq _ _).add ((Nat.mod_modEq _ _).mul_right _)
    _ = w.r.toNat + w.a.toNat * (w.b.toNat % 2 + 2 * (w.b.toNat / 2)) := by ring
    _ = w.r.toNat + w.a.toNat * w.b.toNat := by rw [Nat.mod_add_div]

/-- With enough iterations left the loop ends with the value its invariant promises. -/
theorem mulLoop_r_toNat {m : Word} (hm : m ≠ 0) (f : Nat) {w : MulRegs} (hb : w.b.toNat < 2 ^ f)
    (hr : w.r.toNat < m.toNat) :
    (mulLoop m f w).r.toNat = (w.r.toNat + w.a.toNat * w.b.toNat) % m.toNat := by
  induction f generalizing w with
  | zero =>
    have h0 : w.b.toNat = 0 := by simpa using hb
    simp [h0, Nat.mod_eq_of_lt hr]
  | succ f ih =>
    by_cases h : w.b = 0
    · simp [mulLoop_done m _ w h, h, Nat.mod_eq_of_lt hr]
    · have hr' : (mulIter m w).r.toNat < m.toNat := by
        rw [mulIter_r_toNat hm hr]
        exact Nat.mod_lt _ (toNat_pos_of_ne_zero hm)
      have hb' : (mulIter m w).b.toNat < 2 ^ f := by
        rw [mulIter_b, shiftRight_one_toNat]
        omega
      rw [mulLoop_step m f w h, ih hb' hr']
      exact mulIter_modEq hm hr

theorem modMul_toNat (a b : Word) {m : Word} (hm : m ≠ 0) :
    (modMul a b m).r.toNat = a.toNat * b.toNat % m.toNat := by
  have hr : (mulEnter a b m).r.toNat < m.toNat := toNat_pos_of_ne_zero hm
  rw [modMul, mulLoop_r_toNat hm 64 (mulEnter a b m).b.isLt hr]
  simp [mulEnter, Nat.mul_mod]

theorem modMul_lt (a b : Word) {m : Word} (hm : m ≠ 0) : (modMul a b m).r.toNat < m.toNat := by
  rw [modMul_toNat a b hm]
  exact Nat.mod_lt _ (toNat_pos_of_ne_zero hm)

/-! ### ModPow -/

theorem powIter_a_toNat {m : Word} (hm : m ≠ 0) (w : Work) :
    (powIter m w).pow.a.toNat = w.pow.a.toNat * w.pow.a.toNat % m.toNat := modMul_toNat _ _ hm

/-- One iteration multiplies by the base when bit 0 is set (R131). -/
theorem powIter_r_modEq {m : Word} (hm : m ≠ 0) (w : Work) :
    (powIter m w).pow.r.toNat ≡ w.pow.r.toNat * w.pow.a.toNat ^ (w.pow.b.toNat % 2) [MOD m.toNat] := by
  by_cases h : bit0 w.pow.b = true
  · simp [powIter, h, modMul_toNat _ _ hm, (bit0_eq_true_iff _).mp h, Nat.mod_modEq]
  · have h0 : w.pow.b.toNat % 2 = 0 := Nat.mod_two_ne_one.mp (mt (bit0_eq_true_iff _).mpr h)
    simp [powIter, h, h0, Nat.ModEq.refl]

/-- The loop invariant of R133: every iteration keeps `pow_r * pow_a ^ pow_b` modulo m. -/
theorem powIter_modEq {m : Word} (hm : m ≠ 0) (w : Work) :
    (powIter m w).pow.r.toNat * (powIter m w).pow.a.toNat ^ (powIter m w).pow.b.toNat ≡
      w.pow.r.toNat * w.pow.a.toNat ^ w.pow.b.toNat [MOD m.toNat] := by
  rw [powIter_a_toNat hm, powIter_b, shiftRight_one_toNat]
  calc _ ≡ w.pow.r.toNat * w.pow.a.toNat ^ (w.pow.b.toNat % 2) *
          (w.pow.a.toNat * w.pow.a.toNat) ^ (w.pow.b.toNat / 2) [MOD m.toNat] :=
        (powIter_r_modEq hm w).mul ((Nat.mod_modEq _ _).pow _)
    _ = w.pow.r.toNat * w.pow.a.toNat ^ (w.pow.b.toNat % 2 + 2 * (w.pow.b.toNat / 2)) := by
        rw [← pow_two, ← pow_mul, mul_assoc, ← pow_add]
    _ = w.pow.r.toNat * w.pow.a.toNat ^ w.pow.b.toNat := by rw [Nat.mod_add_div]

/-- The accumulator starts unreduced (R132); it is below m once a bit of the exponent has been consumed, and
until then a bit is left. -/
theorem powIter_r_lt_or {m : Word} (hm : m ≠ 0) {w : Work} (hb : w.pow.b ≠ 0) :
    (powIter m w).pow.b ≠ 0 ∨ (powIter m w).pow.r.toNat < m.toNat := by
  by_cases h : bit0 w.pow.b = true
  · exact .inr (by simpa [powIter, h] using modMul_lt w.pow.r w.pow.a hm)
  · refine .inl fun h' => ?_
    have h2 : w.pow.b.toNat / 2 = 0 := by rw [← shiftRight_one_toNat, ← powIter_b m w, h']; rfl
    have h0 := mt (bit0_eq_true_iff _).mpr h
    have hpos := toNat_pos_of_ne_zero hb
    omega

theorem powLoop_r_toNat {m : Word} (hm : m ≠ 0) (f : Nat) {w : Work} (hb : w.pow.b.toNat < 2 ^ f)
    (hr : w.pow.b ≠ 0 ∨ w.pow.r.toNat < m.toNat) :
    (powLoop m f w).pow.r.toNat = w.pow.r.toNat * w.pow.a.toNat ^ w.pow.b.toNat % m.toNat := by
  induction f generalizing w with
  | zero =>
    have h0 : w.pow.b = 0 := BitVec.eq_of_toNat_eq (by simpa using hb)
    simp [h0, Nat.mod_eq_of_lt (hr.resolve_left (not_not_intro h0))]
  | succ f ih =>
    by_cases h : w.pow.b = 0
    · simp [powLoop_done m _ w h, h, Nat.mod_eq_of_lt (hr.resolve_left (not_not_intro h))]
    · have hb' : (powIter m w).pow.b.toNat < 2 ^ f := by
        rw [powIter_b, shiftRight_one_toNat]
        omega
      rw [powLoop_step m f w h, ih hb' (powIter_r_lt_or hm h)]
      exact powIter_modEq hm w

/-- The conditional reduction at entry is `a mod m` (R131, R133). -/
theorem powEnter_a_toNat (a b m : Word) : (powEnter a b m).a.toNat = a.toNat % m.toNat := by
  unfold powEnter
  split
  · exact remainder_toNat a m
  · next h => exact (Nat.mod_eq_of_lt (by simpa [BitVec.le_def] using h)).symm

/-- The value of ModPow, but for the one case b = 0, m = 1 (R134; 90_conflicts.md C1). -/
theorem modPow_toNat (a : Word) {b m : Word} (w : Work) (hm : m ≠ 0) (h : b ≠ 0 ∨ 1 < m.toNat) :
    (modPow a b m w).pow.r.toNat = a.toNat ^ b.toNat % m.toNat := by
  rw [modPow, powLoop_r_toNat hm 64 (powEnter a b m).b.isLt h, powEnter_a_toNat]
  simp [powEnter, Nat.pow_mod]

/-- ModPow with exponent 0 is 1 for every m, 1 included (R134; 90_conflicts.md C1). -/
theorem modPow_zero_r (a m : Word) (w : Work) : (modPow a 0 m w).pow.r = 1 := by
  rw [modPow, powLoop_done m 64 _ rfl]
  rfl

end Sys2Proof.Proofs
end

section
/-! PROOFS. The classification of MillerRabin in closed form, for every candidate above 1 (44_miller_rabin.md R142,
R144, R146, R149). -/

namespace Sys2Proof.Proofs

open Sys2Proof.Machine Sys2Proof.Safety

/-! ### Decompose -/

theorem bit0_eq_getLsbD (a : Word) : bit0 a = a.getLsbD 0 := by
  rw [Bool.eq_iff_iff, bit0_eq_true_iff, ← BitVec.testBit_toNat, Nat.testBit_zero, decide_eq_true_iff]

/-- `trailingZeros` is the index of the lowest set bit (00 R13). -/
theorem trailingZeros_spec {v : Word} (hv : v ≠ 0) :
    trailingZeros v < 64 ∧ v.getLsbD (trailingZeros v) = true ∧ ∀ i < trailingZeros v, v.getLsbD i = false := by
  unfold trailingZeros
  cases h : (List.range 64).find? fun i => v.getLsbD i with
  | none =>
    refine absurd (BitVec.eq_of_getLsbD_eq fun i hi => ?_) hv
    simpa [hi] using List.find?_eq_none.mp h i (List.mem_range.mpr hi)
  | some t =>
    obtain ⟨ht, hmem, hlow⟩ := List.find?_range_eq_some.mp h
    exact ⟨List.mem_range.mp hmem, ht, fun i hi => by simpa using hlow i hi⟩

/-- Decompose shifts once per zero bit below the lowest set bit, and counts the shifts (R141). -/
theorem decomposeLoop_eq (t f : Nat) (w : MrRegs) (hf : t ≤ f) (hset : w.temp.getLsbD t = true)
    (hlow : ∀ i < t, w.temp.getLsbD i = false) :
    decomposeLoop f w = { w with temp := w.temp >>> t, k := w.k + BitVec.ofNat 7 t } := by
  induction t generalizing f w with
  | zero =>
    rw [decomposeLoop_done f w ((bit0_eq_getLsbD _).trans hset)]
    simp
  | succ t ih =>
    obtain ⟨f, rfl⟩ := Nat.exists_eq_succ_of_ne_zero (by omega : f ≠ 0)
    have h0 : bit0 w.temp = false := (bit0_eq_getLsbD _).trans (hlow 0 t.succ_pos)
    have hshift (i : Nat) : (w.temp >>> 1).getLsbD i = w.temp.getLsbD (i + 1) := by
      rw [BitVec.getLsbD_ushiftRight, Nat.add_comm]
    rw [decomposeLoop_step f w h0,
      ih f _ (by omega) ((hshift t).trans hset) fun i hi => (hshift i).trans (hlow (i + 1) (by omega))]
    simp only [← BitVec.shiftRight_add, BitVec.add_assoc, BitVec.ofNat_add, Nat.add_comm 1 t]
    rw [BitVec.add_comm 1]
    rfl

/-- For a candidate above 1, s = tz(n-1) is the index of the lowest set bit of n-1 (R142). -/
theorem twoExponent_spec {n : Word} (hn : 1 < n.toNat) :
    twoExponent n < 64 ∧ (n - 1).getLsbD (twoExponent n) = true ∧
      ∀ i < twoExponent n, (n - 1).getLsbD i = false := by
  refine trailingZeros_spec fun h => ?_
  have h1 : n = 1 := by bv_omega
  simp [h1] at hn

/-- Decompose leaves q in `mr_temp` and s + 1 in `mr_k` (R141, R142). -/
theorem decompose_eq {n : Word} (hn : 1 < n.toNat) (w : MrRegs) :
    decompose n w = { w with temp := (n - 1) >>> twoExponent n, k := 1 + BitVec.ofNat 7 (twoExponent n) } := by
  obtain ⟨hlt, hset, hlow⟩ := twoExponent_spec hn
  exact decomposeLoop_eq (twoExponent n) 64 { w with temp := n - 1, k := 1 } hlt.le hset hlow

/-- q is odd, so it is not 0 (R142). -/
theorem oddPart_ne_zero {n : Word} (hn : 1 < n.toNat) : oddPart n ≠ 0 := by
  obtain ⟨-, hset, -⟩ := twoExponent_spec hn
  intro h
  have hbit : (oddPart n).testBit 0 = true := by
    rw [oddPart, Nat.testBit_shiftRight, BitVec.testBit_toNat]
    exact hset
  simp [h] at hbit

theorem pred_toNat {n : Word} (hn : 1 < n.toNat) : (n - 1).toNat = n.toNat - 1 :=
  BitVec.toNat_sub_of_le (by simpa [BitVec.le_def] using hn.le)

/-- The exponents of the inner loop, `2^j` with j < s, are below n (R146). -/
theorem two_pow_lt_of_lt_twoExponent {n : Word} (hn : 1 < n.toNat) {j : Nat} (hj : j < twoExponent n) :
    2 ^ j < n.toNat := by
  obtain ⟨-, hset, -⟩ := twoExponent_spec hn
  have hle : 2 ^ twoExponent n ≤ (n - 1).toNat :=
    Nat.ge_two_pow_of_testBit ((BitVec.testBit_toNat _).trans hset)
  rw [pred_toNat hn] at hle
  have hpow := Nat.pow_lt_pow_right (by decide : 1 < 2) hj
  omega

/-! ### One base -/

/-- The registers hold the candidate and its decomposition: q in `mr_temp`, s + 1 in `mr_k` (R142). -/
structure Decomposed (n : Word) (w : MrRegs) : Prop where
  candidate : w.n = n
  odd       : w.temp.toNat = oddPart n
  count     : w.k.toNat = twoExponent n + 1

theorem Decomposed.congr {n : Word} {w w' : MrRegs} (h : Decomposed n w) (hn : w'.n = w.n)
    (htemp : w'.temp = w.temp) (hk : w'.k = w.k) : Decomposed n w' :=
  ⟨hn.trans h.candidate, by rw [htemp, h.odd], by rw [hk, h.count]⟩

theorem decomposed_decompose {n : Word} (hn : 1 < n.toNat) (w : MrRegs) :
    Decomposed n (decompose n { w with n := n }) := by
  obtain ⟨hlt, -, -⟩ := twoExponent_spec hn
  rw [decompose_eq hn]
  refine ⟨rfl, BitVec.toNat_ushiftRight _ _, ?_⟩
  simp only [BitVec.ofNat_eq_ofNat, BitVec.toNat_add, BitVec.toNat_ofNat]
  omega

theorem decomposed_computeX {n : Word} {w : Work} (hw : Decomposed n w.mr) (a : Word) :
    Decomposed n (computeX a w).mr :=
  hw.congr (by rw [computeX_mr]) (by rw [computeX_mr]) (by rw [computeX_mr])

theorem decomposed_computeE {n : Word} {w : Work} (hw : Decomposed n w.mr) : Decomposed n (computeE w).mr :=
  hw.congr (by rw [computeE_mr]) (by rw [computeE_mr]) (by rw [computeE_mr])

theorem decomposed_innerIter {n : Word} {w : Work} (hw : Decomposed n w.mr) (a : Word) (j : Nat) :
    Decomposed n (innerIter a j w).mr := by
  obtain ⟨hn, ht, hk, -⟩ := innerIter_mr a j w
  exact hw.congr hn ht hk

theorem decomposed_testBase {n : Word} {w : Work} (hw : Decomposed n w.mr) (i : Fin 12) :
    Decomposed n (testBase i w).2.mr := by
  obtain ⟨hn, ht, hk⟩ := testBase_mr i w
  exact hw.congr hn ht hk

section
variable {n : Word} (hn : 1 < n.toNat)
include hn

theorem modPow_toNat_of_one_lt (a b : Word) (w : Work) :
    (modPow a b n w).pow.r.toNat = a.toNat ^ b.toNat % n.toNat :=
  modPow_toNat a w (by rintro rfl; simp at hn) (.inr hn)

/-- `mr_x` is `a^q mod n` (R144). -/
theorem computeX_x_toNat (a : Word) {w : Work} (hw : Decomposed n w.mr) :
    (computeX a w).mr.x.toNat = a.toNat ^ oddPart n % n.toNat := by
  rw [computeX_mr, ← hw.odd, hw.candidate]
  exact modPow_toNat_of_one_lt hn a _ w

/-- `mr_e` is exactly `2^j` at the indexes the inner loop visits (R146). -/
theorem computeE_e_toNat {w : Work} (hw : Decomposed n w.mr) {j : Nat} (hj : j < twoExponent n)
    (hwj : w.mr.j = BitVec.ofNat 7 j) : (computeE w).mr.e.toNat = 2 ^ j := by
  obtain ⟨hlt, -, -⟩ := twoExponent_spec hn
  have hj' : (w.mr.j.setWidth 64).toNat = j := by
    rw [hwj, BitVec.toNat_setWidth, BitVec.toNat_ofNat]
    omega
  rw [computeE_mr, hw.candidate]
  refine (modPow_toNat_of_one_lt hn 2 _ w).trans ?_
  rw [hj']
  exact Nat.mod_eq_of_lt (two_pow_lt_of_lt_twoExponent hn hj)

/-- `mr_y` is `(a^q)^(mr_e) mod n` (R146). -/
theorem computeY_y_toNat (a : Word) {w : Work} (hw : Decomposed n w.mr) :
    (computeY a w).mr.y.toNat = a.toNat ^ (oddPart n * w.mr.e.toNat) % n.toNat := by
  rw [computeY_mr, hw.candidate]
  refine (modPow_toNat_of_one_lt hn _ _ _).trans ?_
  rw [modPow_toNat_of_one_lt hn, hw.odd, ← Nat.pow_mod, ← pow_mul]

/-- After an iteration at index j, `mr_y` is `a^(q * 2^j) mod n` (R146, R149). -/
theorem innerIter_y_toNat (a : Word) {w : Work} (hw : Decomposed n w.mr) {j : Nat} (hj : j < twoExponent n) :
    (innerIter a j w).mr.y.toNat = a.toNat ^ (oddPart n * 2 ^ j) % n.toNat := by
  have hw' : Decomposed n ({ w with mr := { w.mr with j := BitVec.ofNat 7 j } } : Work).mr := hw.congr rfl rfl rfl
  rw [innerIter, computeY_y_toNat hn a (decomposed_computeE hw'), computeE_e_toNat hn hw' hj rfl]

/-- The comparison that ends the inner loop, in unbounded integers (R146, R149). -/
theorem innerIter_passes_iff (a : Word) {w : Work} (hw : Decomposed n w.mr) {j : Nat} (hj : j < twoExponent n) :
    (innerIter a j w).mr.y = (innerIter a j w).mr.n - 1 ↔
      a.toNat ^ (oddPart n * 2 ^ j) % n.toNat = n.toNat - 1 := by
  rw [(decomposed_innerIter hw a j).candidate, ← BitVec.toNat_inj, innerIter_y_toNat hn a hw hj, pred_toNat hn]

/-- The inner loop passes exactly when one of the indexes it visits does. -/
theorem innerLoop_passes_iff (a : Word) (f j : Nat) {w : Work} (hw : Decomposed n w.mr)
    (hf : j + f ≤ twoExponent n) :
    (innerLoop a f j w).1 = true ↔
      ∃ i, j ≤ i ∧ i < j + f ∧ a.toNat ^ (oddPart n * 2 ^ i) % n.toNat = n.toNat - 1 := by
  induction f generalizing j w with
  | zero =>
    rw [innerLoop_zero]
    simp only [Bool.false_eq_true, false_iff]
    rintro ⟨i, h₁, h₂, -⟩
    omega
  | succ f ih =>
    have hpass := innerIter_passes_iff hn a hw (by omega : j < twoExponent n)
    rw [innerLoop_succ]
    split
    · next h => exact ⟨fun _ => ⟨j, le_rfl, by omega, hpass.mp h⟩, fun _ => rfl⟩
    · next h =>
      rw [ih (j + 1) (decomposed_innerIter hw a j) (by omega)]
      constructor
      · rintro ⟨i, h₁, h₂, hi⟩
        exact ⟨i, by omega, by omega, hi⟩
      · rintro ⟨i, h₁, h₂, hi⟩
        have hne : j ≠ i := by
          rintro rfl
          exact h (hpass.mpr hi)
        exact ⟨i, by omega, by omega, hi⟩

/-- Both tests of a base are `BasePasses` (R144, R146, R149). -/
theorem testBase_passes_iff (i : Fin 12) {w : Work} (hw : Decomposed n w.mr) :
    (testBase i w).1 = true ↔ BasePasses n (romRead i) := by
  have hw' : Decomposed n ({ w with mr := { w.mr with i := BitVec.ofNat 4 i.val } } : Work).mr :=
    hw.congr rfl rfl rfl
  have hX := decomposed_computeX hw' (romRead i)
  have hx := computeX_x_toNat hn (romRead i) hw'
  have hloop := innerLoop_passes_iff hn (romRead i) (twoExponent n) 0 hX (by omega)
  simp only [Nat.zero_le, true_and, Nat.zero_add] at hloop
  unfold testBase BasePasses
  dsimp only
  split
  · next h =>
    rw [h] at hx
    exact ⟨fun _ => .inl hx.symm, fun _ => rfl⟩
  · next h =>
    rw [← BitVec.toNat_inj, hx] at h
    rw [hX.count, Nat.add_sub_cancel, hloop]
    exact (or_iff_right h).symm

/-! ### The witness loop -/

/-- The witness loop answers PRIME exactly when one of its bases passes (R143, R145, R147). -/
theorem witnessLoop_prime_iff (l : List (Fin 12)) {w : Work} (hw : Decomposed n w.mr) :
    (witnessLoop l w).1 = .prime ↔ ∃ i ∈ l, BasePasses n (romRead i) := by
  induction l generalizing w with
  | nil => simp [witnessLoop_nil]
  | cons i rest ih =>
    rw [witnessLoop_cons, List.exists_mem_cons_iff, ← testBase_passes_iff hn i hw,
      ← ih (decomposed_testBase hw i)]
    cases (testBase i w).1 <;> simp

/-- MillerRabin answers PRIME exactly when some base passes (R149). -/
theorem millerRabin_prime_iff (w : Work) : (millerRabin n w).1 = .prime ↔ SomeBasePasses n := by
  have hall : ∀ i : Fin 12, i ∈ romIndexes := by decide
  have hw : Decomposed n (decompose n { w.mr with n := n }) := decomposed_decompose hn w.mr
  rw [millerRabin, witnessLoop_prime_iff hn romIndexes hw]
  exact ⟨fun ⟨i, _, hi⟩ => ⟨i, hi⟩, fun ⟨i, hi⟩ => ⟨i, hall i, hi⟩⟩

/-- The classification of the literal steps is the one in closed form, whatever the working registers held (R149). -/
theorem millerRabin_eq_classify (w : Work) : (millerRabin n w).1 = classify n := by
  unfold classify
  split
  · next h => exact (millerRabin_prime_iff hn w).mpr h
  · next h =>
    have hp := mt (millerRabin_prime_iff hn w).mp h
    cases hv : (millerRabin n w).1 with
    | prime => exact absurd hv hp
    | composite => rfl

end

end Sys2Proof.Proofs
end

section
/-! PROOFS. What a command in contract completes with: its value in unbounded integers, whatever state it is executed
in (10_state.md R26; 45_command_protocol.md R163, R166). -/

namespace Sys2Proof.Proofs

open Sys2Proof.Machine Sys2Proof.Safety

/-- A candidate in contract is above 1, which is all its classification needs (R150). -/
theorem one_lt_of_candidateFault_none {n : Word} (h : candidateFault n = none) : 1 < n.toNat := by
  obtain ⟨-, h3⟩ := candidateFault_none.mp h
  have h3' : 3 < n.toNat := h3
  omega

/-- The literal steps of a command in contract compute its mathematical value. -/
theorem finish_res {i : Instr} (h : contractFault i = none) (s : State) : (finish i s).res = commandValue i := by
  cases i with
  | modadd a b m => exact (BitVec.toNat_eq_nat.mp (modAdd_toNat a b (modulusFault_none.mp h))).2
  | modsub a b m => exact (BitVec.toNat_eq_nat.mp (modSub_toNat a b (modulusFault_none.mp h))).2
  | modmul a b m => exact (BitVec.toNat_eq_nat.mp (modMul_toNat a b (modulusFault_none.mp h))).2
  | modpow a b m =>
    have hm : m ≠ 0 := modulusFault_none.mp h
    by_cases hb : b = 0
    · subst hb
      exact modPow_zero_r a m s.work
    · rw [commandValue, if_neg hb]
      exact (BitVec.toNat_eq_nat.mp (modPow_toNat a s.work hm (.inl hb))).2
  | millerRabin n => exact congrArg Verdict.code (millerRabin_eq_classify (one_lt_of_candidateFault_none h) s.work)

/-- A command in contract ends in COMPLETE with its value, beside changes of the working registers (R163). -/
theorem finish_eq_complete {i : Instr} (h : contractFault i = none) (s : State) :
    ∃ w, finish i s = (s.setWork w).complete (commandValue i) := by
  obtain ⟨w, v, he⟩ := finish_eq i s
  have hv : v = commandValue i := by rw [← finish_res h s, he, State.complete_res]
  exact ⟨w, hv ▸ he⟩

/-- The atomic view of a packet in contract (R166). -/
theorem issue_of_decode_command {p : Packet} {i : Instr} (hd : decode p = .command i) (hc : contractFault i = none) :
    issue p = .ok (commandValue i) := by
  simp [issue, hd, hc]

/-- Settles O35: two next states of one command come from its contract test passing, and then RES is its value. -/
theorem resultDependsOnCommandAlone : Obligations.ResultDependsOnCommandAlone := by
  intro i s t s' t' hs ht
  obtain ⟨hc, rfl⟩ := exec_next hs
  obtain ⟨-, rfl⟩ := exec_next ht
  exact ⟨(finish_res hc s).trans (finish_res hc t).symm, finish_res hc s⟩

end Sys2Proof.Proofs
end

section
/-! PROOFS. The invariant: flags exclusive, offences recorded, a standing response right (10_state.md R24, R33;
60_exceptions.md R172). -/

namespace Sys2Proof.Proofs

open Sys2Proof.Machine Sys2Proof.Safety

/-- An IDLE unit meets the invariant whatever its registers hold. -/
theorem inv_of_idle {s : State} (hb : s.busy = false) (hv : s.rspValid = false) : Inv s where
  flags h := Bool.false_ne_true (hb.symm.trans h.1)
  offence h := absurd (hb.symm.trans h) Bool.false_ne_true
  response h := absurd (hv.symm.trans h) Bool.false_ne_true

/-- The invariant speaks of the flags, the latched packet, RES and the recorded outcomes only. -/
theorem inv_congr {s t : State} (h : Inv s) (hb : t.busy = s.busy) (hv : t.rspValid = s.rspValid)
    (hl : t.latched = s.latched) (hr : t.res = s.res) (hm : t.marks = s.marks) : Inv t where
  flags := by
    rw [FlagsExclusive, hb, hv]
    exact h.flags
  offence := by
    rw [OffenceRecorded, hb, hl, hm]
    exact h.offence
  response := by
    rw [ResponseRight, hv, hl, hr]
    exact h.response

/-- ACCEPT in IDLE records the outcome of the packet it latches (R161, R172). -/
theorem inv_accept {s : State} (hv : s.rspValid = false) (p : Packet) : Inv (s.accept p) where
  flags h := Bool.false_ne_true (hv.symm.trans h.2)
  offence _ m hm := by
    rw [State.latched_accept] at hm
    simp [hm]
  response h := absurd (hv.symm.trans h) Bool.false_ne_true

/-- COMPLETE answers the command in OPC, OPA, OPB and OPM, which keep their values (R163). -/
theorem inv_finish {s : State} {i : Instr} (hd : decode s.latched = .command i) (hc : contractFault i = none) :
    Inv (finish i s) := by
  obtain ⟨w, he⟩ := finish_eq_complete hc s
  rw [he]
  exact {
    flags := fun h => Bool.false_ne_true h.1
    offence := fun h => absurd h Bool.false_ne_true
    response := fun _ => issue_of_decode_command hd hc }

theorem inv_doneEdge {s : State} (h : Inv s) (hb : s.busy = false) (e : PortIn) : Inv (doneEdge e s) := by
  unfold doneEdge
  split
  · exact inv_of_idle hb rfl
  · exact h

theorem inv_idleEdge {s : State} (h : Inv s) (hv : s.rspValid = false) (e : PortIn) : Inv (idleEdge e s) := by
  unfold idleEdge
  split
  · exact inv_accept hv e.cmd
  · exact h

/-- Settles O52, by the cases of an edge. -/
theorem stepKeepsInvariant : Obligations.StepKeepsInvariant := by
  intro s t hs h
  have hpop : Inv s.popEdge := inv_congr hs rfl rfl rfl rfl rfl
  obtain ⟨-, rfl⟩ | ⟨-, -, hbusy⟩ | ⟨-, hb, -, rfl⟩ | ⟨-, -, hv, rfl⟩ := step_cases h
  · exact inv_of_idle rfl rfl
  · obtain ⟨k, -, rfl⟩ | ⟨-, -, rfl⟩ | ⟨-, i, hd, hc, rfl⟩ := hbusy
    · exact inv_congr hpop rfl rfl rfl rfl rfl
    · exact hpop
    · exact inv_finish hd hc
  · exact inv_doneEdge hpop hb s.edgeIn
  · exact inv_idleEdge hpop hv s.edgeIn

/-- Settles O51: the unit is IDLE after reset, and the host has counted nothing. -/
theorem resetMeetsInvariant : Obligations.ResetMeetsInvariant :=
  ⟨inv_of_idle rfl rfl, by decide, by decide⟩

end Sys2Proof.Proofs
end

section
/-! PROOFS. What the host cannot read, it cannot observe (10_state.md R22, R26, R31): `SameForHost` as a relational
invariant of the step. -/

namespace Sys2Proof.Proofs

open Sys2Proof.Machine Sys2Proof.Safety

/-! ### Each operation on both states -/

theorem edgeIn_eq_of_sameForHost {s t : State} (h : SameForHost s t) : s.edgeIn = t.edgeIn := by
  rw [State.edgeIn, State.edgeIn, h.inputs]

section
variable {s t : State} (h : SameForHost s t)
include h

theorem sameForHost_popEdge : SameForHost s.popEdge t.popEdge :=
  { h with inputs := congrArg List.tail h.inputs }

theorem sameForHost_resetEdge : SameForHost s.resetEdge t.resetEdge :=
  { h with
    busy := rfl
    rspValid := rfl
    inFlight := fun h => absurd h Bool.false_ne_true
    response := fun h => absurd h Bool.false_ne_true }

theorem sameForHost_waitOn (k : Nat) : SameForHost (s.waitOn k) (t.waitOn k) :=
  { h with inFlight := fun hb => ⟨(h.inFlight hb).1, rfl⟩ }

theorem sameForHost_take (hv : s.rspValid = true) : SameForHost s.take t.take :=
  { h with
    rspValid := rfl
    response := fun h => absurd h Bool.false_ne_true
    taken := by rw [State.take_taken, State.take_taken, h.taken, h.response hv]
    answered := h.accepted }

theorem sameForHost_accept (p : Packet) : SameForHost (s.accept p) (t.accept p) :=
  { h with
    busy := rfl
    inFlight := fun _ => ⟨by rw [State.latched_accept, State.latched_accept], rfl⟩
    marks := congrArg (· ++ (packetMark p).toList) h.marks
    accepted := congrArg (· + 1) h.accepted }

/-- Whatever the working registers hold, a command in contract completes with the same response (R26). -/
theorem sameForHost_finish {i : Instr} (hc : contractFault i = none) : SameForHost (finish i s) (finish i t) := by
  obtain ⟨w, hs⟩ := finish_eq_complete hc s
  obtain ⟨w', ht⟩ := finish_eq_complete hc t
  rw [hs, ht]
  exact { h with
    busy := rfl
    rspValid := rfl
    inFlight := fun h => absurd h Bool.false_ne_true
    response := fun _ => rfl }

/-! ### Each edge on both states -/

theorem sameForHost_doneEdge (hv : s.rspValid = true) (e : PortIn) : SameForHost (doneEdge e s) (doneEdge e t) := by
  unfold doneEdge
  split
  · exact sameForHost_take h hv
  · exact h

theorem sameForHost_idleEdge (e : PortIn) : SameForHost (idleEdge e s) (idleEdge e t) := by
  unfold idleEdge
  split
  · exact sameForHost_accept h e.cmd
  · exact h

/-- The command in flight and its edges to wait are the same, so both wait, both complete or both stay. -/
theorem sameOutcome_busyEdge (hb : s.busy = true) : SameOutcome (busyEdge s) (busyEdge t) := by
  obtain ⟨hl, hw⟩ := h.inFlight hb
  cases hk : s.wait with
  | succ k =>
    rw [busyEdge_wait hk, busyEdge_wait (hw ▸ hk)]
    exact sameForHost_waitOn h k
  | zero =>
    cases hd : decode s.latched with
    | reserved op =>
      rw [busyEdge_reserved hk hd, busyEdge_reserved (hw ▸ hk) (hl ▸ hd)]
      exact h
    | command i =>
      rw [busyEdge_command hk hd, busyEdge_command (hw ▸ hk) (hl ▸ hd), completeOrStay_exec, completeOrStay_exec]
      split
      · next hc => exact sameForHost_finish h hc
      · exact h

theorem hostSees_eq_of_sameForHost : hostSees s = hostSees t := by
  cases hv : s.rspValid with
  | false => simp [hostSees, State.cmdReady, ← h.busy, ← h.rspValid, hv]
  | true => simp [hostSees, State.cmdReady, ← h.busy, ← h.rspValid, hv, h.response hv]

/-- One edge keeps two states the host cannot tell apart so: the same transition happens in both. -/
theorem sameOutcome_step : SameOutcome (step s) (step t) := by
  have hpop := sameForHost_popEdge h
  have he := edgeIn_eq_of_sameForHost h
  cases hr : s.edgeIn.rst with
  | true =>
    rw [step_reset hr, step_reset (he ▸ hr)]
    exact sameForHost_resetEdge hpop
  | false =>
    cases hb : s.busy with
    | true =>
      rw [step_busy hr hb, step_busy (he ▸ hr) (h.busy ▸ hb)]
      exact sameOutcome_busyEdge hpop hb
    | false =>
      cases hv : s.rspValid with
      | true =>
        rw [step_done hr hb hv, step_done (he ▸ hr) (h.busy ▸ hb) (h.rspValid ▸ hv), he]
        exact sameForHost_doneEdge hpop hv t.edgeIn
      | false =>
        rw [step_idle hr hb hv, step_idle (he ▸ hr) (h.busy ▸ hb) (h.rspValid ▸ hv), he]
        exact sameForHost_idleEdge hpop t.edgeIn

end

/-- Settles O53: `SameForHost` is a relational invariant of the step, and decides the output ports. -/
theorem hiddenRegistersAreNotObservable : Obligations.HiddenRegistersAreNotObservable :=
  fun _ _ h => ⟨hostSees_eq_of_sameForHost h, sameOutcome_step h⟩

end Sys2Proof.Proofs
end

section
/-! PROOFS. The rows of the opcode map and the reserved opcodes (30_encoding.md R73, R75; 60_exceptions.md R172). -/

namespace Sys2Proof.Proofs

open Sys2Proof.Machine

/-! ### The decoder, by opcode -/

section
variable {p : Packet}

theorem decode_of_op_zero (h : p.op = 0) : decode p = .command (.modadd p.a p.b p.m) := by simp [decode, h]

theorem decode_of_op_one (h : p.op = 1) : decode p = .command (.modsub p.a p.b p.m) := by simp [decode, h]

theorem decode_of_op_two (h : p.op = 2) : decode p = .command (.modmul p.a p.b p.m) := by simp [decode, h]

theorem decode_of_op_three (h : p.op = 3) : decode p = .command (.modpow p.a p.b p.m) := by simp [decode, h]

theorem decode_of_op_four (h : p.op = 4) : decode p = .command (.millerRabin p.a) := by simp [decode, h]

theorem decode_of_op_reserved (h : p.op = 5 ∨ p.op = 6 ∨ p.op = 7) : decode p = .reserved p.op := by
  obtain h | h | h := h <;> simp [decode, h]

/-- Once what the decoder can answer: a command, whose opcode is then field `op`, or `reserved`, on op 5 to 7. -/
theorem decode_cases (p : Packet) :
    (∃ i, decode p = .command i ∧ p.op = i.opcode) ∨
    (decode p = .reserved p.op ∧ (p.op = 5 ∨ p.op = 6 ∨ p.op = 7)) := by
  have hop : p.op = 0 ∨ p.op = 1 ∨ p.op = 2 ∨ p.op = 3 ∨ p.op = 4 ∨ p.op = 5 ∨ p.op = 6 ∨ p.op = 7 := by
    generalize p.op = op
    decide +revert
  obtain h | h | h | h | h | h := hop
  · exact .inl ⟨_, decode_of_op_zero h, h⟩
  · exact .inl ⟨_, decode_of_op_one h, h⟩
  · exact .inl ⟨_, decode_of_op_two h, h⟩
  · exact .inl ⟨_, decode_of_op_three h, h⟩
  · exact .inl ⟨_, decode_of_op_four h, h⟩
  · exact .inr ⟨decode_of_op_reserved h, h⟩

theorem op_of_decode_command {i : Instr} (h : decode p = .command i) : p.op = i.opcode := by
  obtain ⟨j, hj, hop⟩ | ⟨hr, -⟩ := decode_cases p
  · cases hj.symm.trans h
    exact hop
  · cases hr.symm.trans h

theorem decode_reserved_iff : (∃ op, decode p = .reserved op) ↔ p.op = 5 ∨ p.op = 6 ∨ p.op = 7 := by
  refine ⟨fun ⟨op, h⟩ => ?_, fun h => ⟨_, decode_of_op_reserved h⟩⟩
  obtain ⟨i, hi, -⟩ | ⟨-, hop⟩ := decode_cases p
  · cases hi.symm.trans h
  · exact hop

end

/-! ### The rows of the opcode map -/

/-- Two packets are masked field by field. -/
theorem packet_and_packet (op op' : Opcode) (a a' b b' m m' : Word) :
    packet op a b m &&& packet op' a' b' m' = packet (op &&& op') (a &&& a') (b &&& b') (m &&& m') := by
  unfold packet
  rw [← BitVec.and_append, ← BitVec.and_append, ← BitVec.and_append]

/-- The mask of the opcode map keeps field `op` and clears the operand fields. -/
theorem and_rowMask (p : Packet) : p &&& rowMask = packet p.op 0 0 0 := by
  have hop : p.op &&& 7#3 = p.op := BitVec.and_allOnes
  calc p &&& rowMask = packet p.op p.a p.b p.m &&& packet 7 0 0 0 := by rw [packet_fields, rowMask]
    _ = packet p.op 0 0 0 := by simp [packet_and_packet, hop]

theorem and_rowMask_eq_rowMatch_iff (p : Packet) (i : Instr) : p &&& rowMask = i.rowMatch ↔ p.op = i.opcode := by
  rw [and_rowMask, Instr.rowMatch]
  refine ⟨fun h => ?_, fun h => by rw [h]⟩
  rw [← packet_op p.op 0 0 0, h, packet_op]

/-- The shifted mask and match values of R73 are the model's own. -/
theorem seven_shiftLeft_eq_rowMask : (0x7 : Packet) <<< 192 = rowMask := by decide

theorem rowMatch_eq_shiftLeft (i : Instr) : i.rowMatch = (i.opcode.setWidth 195) <<< 192 := by
  rw [Instr.rowMatch]
  generalize i.opcode = op
  decide +revert

/-- A row whose command the decoder gives on the row's opcode is selected exactly by the packets that decode
to that command. -/
theorem rowSelects_iff_decode {p v : Packet} {i : Instr} (hv : i.opcode.setWidth 195 = v)
    (h : p.op = i.opcode → decode p = .command i) :
    p &&& (0x7 : Packet) <<< 192 = v <<< 192 ↔ decode p = .command i := by
  rw [seven_shiftLeft_eq_rowMask, ← hv, ← rowMatch_eq_shiftLeft, and_rowMask_eq_rowMatch_iff]
  exact ⟨h, op_of_decode_command⟩

/-- Settles O1: under the mask a packet is its opcode alone, and the decoder gives each row's command on the row's
opcode. -/
theorem rowSelectsByMaskAndMatch : Obligations.RowSelectsByMaskAndMatch := fun _ =>
  ⟨rowSelects_iff_decode rfl decode_of_op_zero, rowSelects_iff_decode rfl decode_of_op_one,
    rowSelects_iff_decode rfl decode_of_op_two, rowSelects_iff_decode rfl decode_of_op_three,
    rowSelects_iff_decode rfl decode_of_op_four⟩

/-! ### Reserved opcodes on the machine -/

theorem packetMark_of_op_reserved {p : Packet} (h : p.op = 5 ∨ p.op = 6 ∨ p.op = 7) :
    packetMark p = some (.refusal .reservedOpcode) :=
  packetMark_reserved (decode_of_op_reserved h)

/-- An edge at which the unit is ready and the host presents a command is ACCEPT (R161). -/
theorem step_accept {s : State} (hr : s.edgeIn.rst = false) (hc : s.edgeIn.cmdValid = true)
    (hready : s.cmdReady = true) : step s = .next (s.popEdge.accept s.edgeIn.cmd) := by
  obtain ⟨hb, hv⟩ : s.busy = false ∧ s.rspValid = false := by simpa [State.cmdReady] using hready
  rw [step_idle hr hb hv, idleEdge, if_pos hc]

/-- An edge of a unit with an offending command in flight only counts down its edges to wait (R172; log 6). -/
theorem step_offence {s : State} (hr : s.edgeIn.rst = false) (hb : s.busy = true) (hm : packetMark s.latched ≠ none) :
    step s = .next (s.popEdge.waitOn (s.wait - 1)) :=
  (step_busy hr hb).trans (busyEdge_offence hm)

/-- Settles O2: ACCEPT records the refusal the decoder's verdict deserves, and a reserved command in flight only
waits. -/
theorem reservedOpcodesAreRefused : Obligations.ReservedOpcodesAreRefused := by
  refine ⟨fun p => ?_, fun p => decode_reserved_iff, fun s hr hc hready hop => ?_, fun s hb hr hop => ?_⟩
  · obtain ⟨i, hi, -⟩ | ⟨hd, -⟩ := decode_cases p
    · exact .inl ⟨i, hi⟩
    · exact .inr hd
  · refine ⟨_, step_accept hr hc hready, ?_⟩
    rw [State.accept_marks, packetMark_of_op_reserved hop]
    rfl
  · have hmark : packetMark s.latched = some (.refusal .reservedOpcode) :=
      packetMark_of_op_reserved (by rwa [State.latched_eq, packet_op])
    exact ⟨_, step_offence hr hb (by simp [hmark]), rfl, rfl, rfl⟩

end Sys2Proof.Proofs
end

section
/-! PROOFS. The 49-digit text of a packet (30_encoding.md R72). -/

namespace Sys2Proof.Proofs

@[simp] theorem packetText_length (p : Packet) : (packetText p).length = 49 := by simp [packetText]

theorem packetText_getElem (p : Packet) (i : Nat) (h : i < (packetText p).length) :
    (packetText p)[i] = p.extractLsb' (4 * (48 - i)) 4 := by simp [packetText]

theorem digitsValue_concat (ds : List (BitVec 4)) (d : BitVec 4) :
    digitsValue (ds ++ [d]) = 16 * digitsValue ds + d.toNat := by simp [digitsValue]

/-- The `k` digits from digit `s` on, with `e` digits after them, are the value of their own bits of the packet:
each further digit is the next four bits down. -/
theorem digitsValue_packetText_slice (p : Packet) (s k e : Nat) (h : s + k + e = 49) :
    digitsValue (((packetText p).drop s).take k) = p.toNat / 16 ^ e % 16 ^ k := by
  induction k generalizing e with
  | zero => simp [digitsValue, Nat.mod_one]
  | succ k ih =>
    have hk : k < ((packetText p).drop s).length := by
      rw [List.length_drop, packetText_length]
      omega
    have hdigit : (((packetText p).drop s)[k]).toNat = p.toNat / 16 ^ e % 16 := by
      rw [List.getElem_drop, packetText_getElem, BitVec.extractLsb'_toNat, Nat.shiftRight_eq_div_pow,
        show 48 - (s + k) = e by omega, Nat.pow_mul]
    rw [List.take_succ_eq_append_getElem hk, digitsValue_concat, ih (e + 1) (by omega), hdigit, Nat.pow_succ 16 e,
      ← Nat.div_div_eq_div_mul, Nat.pow_succ', Nat.mod_mul, Nat.add_comm]

/-- The whole text has the value of the packet. -/
theorem digitsValue_packetText (p : Packet) : digitsValue (packetText p) = p.toNat := by
  have hslice := digitsValue_packetText_slice p 0 49 0 rfl
  have hp := p.isLt
  rw [List.drop_zero, List.take_of_length_le (packetText_length p).le] at hslice
  omega

theorem packetOfText_packetText (p : Packet) : packetOfText (packetText p) = some p := by
  rw [packetOfText, digitsValue_packetText, if_pos ⟨packetText_length p, p.isLt⟩, BitVec.ofNat_toNat,
    BitVec.setWidth_eq]

/-- The first digit is `op` with a 0 above it, since a packet has no bit above 194. -/
theorem packetText_head? (p : Packet) : (packetText p).head? = some (p.op.setWidth 4) := by
  have hdigit : p.extractLsb' 192 4 = p.op.setWidth 4 := by
    apply BitVec.eq_of_toNat_eq
    have hp := p.isLt
    simp only [Packet.op, BitVec.toNat_setWidth, BitVec.extractLsb'_toNat, Nat.shiftRight_eq_div_pow]
    omega
  rw [← hdigit]
  rfl

theorem digitsValue_packetText_a (p : Packet) : digitsValue (((packetText p).drop 1).take 16) = p.a.toNat := by
  rw [digitsValue_packetText_slice p 1 16 32 rfl, Packet.a, BitVec.extractLsb'_toNat, Nat.shiftRight_eq_div_pow]
  norm_num

theorem digitsValue_packetText_b (p : Packet) : digitsValue (((packetText p).drop 17).take 16) = p.b.toNat := by
  rw [digitsValue_packetText_slice p 17 16 16 rfl, Packet.b, BitVec.extractLsb'_toNat, Nat.shiftRight_eq_div_pow]
  norm_num

theorem digitsValue_packetText_m (p : Packet) : digitsValue ((packetText p).drop 33) = p.m.toNat := by
  have hslice := digitsValue_packetText_slice p 33 16 0 rfl
  rw [List.take_of_length_le (by rw [List.length_drop, packetText_length])] at hslice
  rw [hslice, Packet.m, BitVec.extractLsb'_toNat, Nat.shiftRight_eq_div_pow]
  norm_num

/-- Settles O7: each group of digits is its own field of the packet; the rule's example is evaluated. -/
theorem packetTextStandsForThePacket : Obligations.PacketTextStandsForThePacket :=
  ⟨fun p => ⟨packetText_length p, packetOfText_packetText p, packetText_head? p, digitsValue_packetText_a p,
    digitsValue_packetText_b p, digitsValue_packetText_m p⟩, by decide⟩

end Sys2Proof.Proofs
end

section
/-! PROOFS. MODADD: no step wraps, its value, and what it completes with (40_modadd.md R100 to R103). The outcome of the
four modular commands with m = 0 (R104; 41_modsub.md R113, 42_modmul.md R125, 43_modpow.md R135). -/

namespace Sys2Proof.Proofs

open Sys2Proof.Machine

/-! ### The two branches of ModAdd -/

theorem modAdd_of_le {a b m : Word} (h : m - remainder b m ≤ remainder a m) :
    modAdd a b m = remainder a m - (m - remainder b m) := if_pos h

theorem modAdd_of_not_le {a b m : Word} (h : ¬ m - remainder b m ≤ remainder a m) :
    modAdd a b m = remainder a m + remainder b m := if_neg h

/-- The second branch of ModAdd is the one in which the sum of the remainders stays below m (R102). -/
theorem remainder_add_lt_of_not_le {a b m : Word} (hm : m ≠ 0) (h : ¬ m - remainder b m ≤ remainder a m) :
    (remainder a m).toNat + (remainder b m).toNat < m.toNat := by
  rw [BitVec.le_def, sub_remainder_toNat b hm, ← remainder_toNat] at h
  omega

/-- Settles O10: in each branch the comparison is what keeps the subtraction or the addition from wrapping. -/
theorem modAddStepsNeverWrap : Obligations.ModAddStepsNeverWrap := by
  intro a b m hm
  have hb : b.toNat % m.toNat < m.toNat := Nat.mod_lt _ (toNat_pos_of_ne_zero hm)
  have ht := sub_remainder_toNat b hm
  refine ⟨by omega, by omega, ht, hb.le, fun h => ?_, fun h => ?_⟩
  · refine ⟨modAdd_of_le h, ?_, BitVec.le_def.mp h⟩
    rw [modAdd_of_le h, BitVec.toNat_sub_of_le h]
  · have hlt := remainder_add_lt_of_not_le hm h
    refine ⟨modAdd_of_not_le h, ?_, hlt⟩
    rw [modAdd_of_not_le h, BitVec.toNat_add_of_lt (hlt.trans m.isLt)]

/-- Settles O11: every clause is a form of the one value of ModAdd. -/
theorem modAddValue : Obligations.ModAddValue := by
  intro a b m hm
  refine ⟨?_, modAdd_toNat a b hm, modAdd_lt a b hm, ?_⟩
  · rw [modAdd_toNat a b hm, Nat.add_mod]
  · simpa using modAdd_toNat a 0 hm

/-! ### The contract decides the outcome -/

theorem exec_of_contractFault_none {i : Instr} (h : contractFault i = none) (s : State) :
    exec i s = .next (finish i s) := by
  rw [exec_eq_endCommand, h, endCommand_none]

theorem exec_of_contractFault_some (i : Instr) {f : Fault} (h : contractFault i = some f) (s : State) :
    exec i s = .fault f := by
  rw [exec_eq_endCommand, h, endCommand_some]

/-- Settles O27: MODADD in contract ends in COMPLETE alone, and what it writes to RES is the value of ModAdd. -/
theorem modaddCompletes : Obligations.ModaddCompletes := by
  intro a b m s hm
  have hc : contractFault (.modadd a b m) = none := modulusFault_none.mpr hm
  have hres : modAdd a b m = BitVec.ofNat 64 ((a.toNat + b.toNat) % m.toNat) :=
    (BitVec.toNat_eq_nat.mp (modAdd_toNat a b hm)).2
  rw [exec_of_contractFault_none hc, finish, hres, State.complete]

/-- Settles O32: m = 0 fails the one contract test the four commands share. -/
theorem zeroModulusFaults : Obligations.ZeroModulusFaults := by
  intro a b s
  have hzero : modulusFault 0 = some .m0 := modulusFault_some.mpr ⟨rfl, rfl⟩
  exact ⟨exec_of_contractFault_some (.modadd a b 0) hzero s, exec_of_contractFault_some (.modsub a b 0) hzero s,
    exec_of_contractFault_some (.modmul a b 0) hzero s, exec_of_contractFault_some (.modpow a b 0) hzero s⟩

end Sys2Proof.Proofs
end

section
/-! PROOFS. MODSUB: no step wraps, its value with the corner cases, and what it completes with (41_modsub.md R110 to
R114). -/

namespace Sys2Proof.Proofs

open Sys2Proof.Machine

/-! ### The two branches of ModSub -/

theorem modSub_of_lt {a b m : Word} (h : remainder a m < remainder b m) :
    modSub a b m = m - remainder b m + remainder a m := if_pos h

theorem modSub_of_not_lt {a b m : Word} (h : ¬ remainder a m < remainder b m) :
    modSub a b m = remainder a m - remainder b m := if_neg h

/-- Settles O12: the borrow branch adds to `m - b'` a remainder below `b'`, which stays below m; the other branch
subtracts the smaller remainder. -/
theorem modSubStepsNeverWrap : Obligations.ModSubStepsNeverWrap := by
  intro a b m hm
  refine ⟨fun h => ?_, fun h => ?_⟩
  · have hb : (remainder b m).toNat < m.toNat := by
      rw [remainder_toNat]
      exact Nat.mod_lt _ (toNat_pos_of_ne_zero hm)
    have ht : (m - remainder b m).toNat = m.toNat - (remainder b m).toNat := by
      rw [sub_remainder_toNat b hm, remainder_toNat]
    have hlt : (remainder a m).toNat < (remainder b m).toNat := BitVec.lt_def.mp h
    have hsum : (m - remainder b m).toNat + (remainder a m).toNat < m.toNat := by omega
    refine ⟨by omega, hb.le, ht, by omega, by omega, ?_, by omega⟩
    rw [modSub_of_lt h, BitVec.toNat_add_of_lt (hsum.trans m.isLt)]
  · have hle : remainder b m ≤ remainder a m := BitVec.not_lt.mp h
    exact ⟨BitVec.le_def.mp hle, by rw [modSub_of_not_lt h, BitVec.toNat_sub_of_le hle]⟩

/-! ### The value of ModSub (R114) -/

theorem modSub_lt (a b : Word) {m : Word} (hm : m ≠ 0) : (modSub a b m).toNat < m.toNat := by
  rw [modSub_toNat a b hm]
  exact Nat.mod_lt _ (toNat_pos_of_ne_zero hm)

/-- In the integers the reductions of the operands and the added m do not show. -/
theorem modSub_toInt (a b : Word) {m : Word} (hm : m ≠ 0) :
    ((modSub a b m).toNat : Int) = ((a.toNat : Int) - b.toNat) % m.toNat := by
  have hb : b.toNat % m.toNat ≤ a.toNat % m.toNat + m.toNat :=
    Nat.le_add_left_of_le (Nat.mod_lt _ (toNat_pos_of_ne_zero hm)).le
  rw [modSub_toNat a b hm, Int.natCast_emod, Nat.cast_sub hb]
  push_cast
  rw [add_sub_right_comm, Int.add_emod_right, ← Int.sub_emod]

theorem modSub_of_remainder_eq {a b m : Word} (h : remainder a m = remainder b m) : modSub a b m = 0 := by
  rw [modSub_of_not_lt (h ▸ BitVec.lt_irrefl _), h, sub_self]

theorem modSub_of_remainder_right_eq_zero {a b m : Word} (h : remainder b m = 0) :
    modSub a b m = remainder a m := by
  rw [modSub_of_not_lt (h ▸ BitVec.not_lt_zero), h, sub_zero]

theorem modSub_of_remainder_left_eq_zero {a b m : Word} (ha : remainder a m = 0) (hb : remainder b m ≠ 0) :
    modSub a b m = m - remainder b m := by
  have h : remainder a m < remainder b m := ha ▸ BitVec.lt_def.mpr (toNat_pos_of_ne_zero hb)
  rw [modSub_of_lt h, ha, add_zero]

theorem modSub_modulus_one (a b : Word) : modSub a b 1 = 0 :=
  BitVec.eq_of_toNat_eq (Nat.lt_one_iff.mp (modSub_lt a b (m := 1) (by decide)))

/-- Subtracting b takes back the addition of b. -/
theorem modSub_modAdd_cancel (a b : Word) {m : Word} (hm : m ≠ 0) :
    modSub (modAdd a b m) b m = remainder a m := by
  apply BitVec.eq_of_toNat_eq
  apply Int.natCast_inj.mp
  rw [modSub_toInt _ b hm, modAdd_toNat a b hm, remainder_toNat, Int.natCast_emod, Int.emod_sub_emod, Nat.cast_add,
    add_sub_cancel_right, Int.natCast_emod]

/-- Settles O13: the one value of ModSub, its corner cases by the branch each takes, and the rule's two examples. -/
theorem modSubValue : Obligations.ModSubValue := by
  refine ⟨fun a b m hm => ⟨modSub_toNat a b hm, ?_, modSub_lt a b hm, modSub_of_remainder_eq,
    modSub_of_remainder_right_eq_zero, modSub_of_remainder_left_eq_zero, fun h => h ▸ modSub_modulus_one a b,
    modSub_modAdd_cancel a b hm⟩, by decide, by decide⟩
  rw [modSub_toInt a b hm, Int.add_emod_right, Int.natCast_emod, Int.natCast_emod, ← Int.sub_emod]

/-- Settles O28: MODSUB in contract ends in COMPLETE alone, and what it writes to RES is the value of ModSub. -/
theorem modsubCompletes : Obligations.ModsubCompletes := by
  intro a b m s hm
  have hc : contractFault (.modsub a b m) = none := modulusFault_none.mpr hm
  have hres : modSub a b m = BitVec.ofNat 64 ((a.toNat % m.toNat + m.toNat - b.toNat % m.toNat) % m.toNat) :=
    (BitVec.toNat_eq_nat.mp (modSub_toNat a b hm)).2
  rw [exec_of_contractFault_none hc, finish, hres, State.complete]

end Sys2Proof.Proofs
end

section
/-! PROOFS. MODMUL: the loop invariants of ModMul, its iteration count, its value, and what it completes with
(42_modmul.md R120 to R124). -/

namespace Sys2Proof.Proofs

open Sys2Proof.Machine

/-! ### The loop invariants (R122) -/

/-- A register below m is its own remainder, so the reductions inside the inner ModAdd change nothing. -/
theorem remainder_eq_self_of_lt {a m : Word} (h : a.toNat < m.toNat) : remainder a m = a :=
  BitVec.eq_of_toNat_eq (by rw [remainder_toNat, Nat.mod_eq_of_lt h])

theorem mulIter_r_lt {m : Word} (hm : m ≠ 0) {w : MulRegs} (hr : w.r.toNat < m.toNat) :
    (mulIter m w).r.toNat < m.toNat := by
  rw [mulIter_r_toNat hm hr]
  exact Nat.mod_lt _ (toNat_pos_of_ne_zero hm)

/-- Settles O14: at entry the accumulator is 0 and the operands are reduced; an iteration leaves the reduced sums of
ModAdd and keeps `mul_r + mul_a * mul_b` modulo m. -/
theorem modMulLoopInvariants : Obligations.ModMulLoopInvariants := by
  intro a b m hm
  have hpos := toNat_pos_of_ne_zero hm
  refine ⟨⟨?_, hpos, ?_⟩, fun w ha hr => ⟨modAdd_lt w.a w.a hm, mulIter_r_lt hm hr, mulIter_modEq hm hr,
    remainder_eq_self_of_lt ha, remainder_eq_self_of_lt hr⟩⟩
  · rw [mulEnter, remainder_toNat]
    exact Nat.mod_lt _ hpos
  · simp [mulEnter]

/-! ### The iteration count (R123) -/

/-- Every iteration shifts `mul_b` right by one. -/
theorem mulIter_iterate_b_toNat (m : Word) (k : Nat) (w : MulRegs) :
    ((mulIter m)^[k] w).b.toNat = w.b.toNat / 2 ^ k := by
  induction k with
  | zero => simp
  | succ k ih =>
    rw [Function.iterate_succ_apply', mulIter_b, shiftRight_one_toNat, ih, Nat.div_div_eq_div_mul, Nat.pow_succ]

/-- `mul_b` is used up once its bits have been shifted out, and not before. -/
theorem mulIter_iterate_b_eq_zero_iff (m : Word) (k : Nat) (w : MulRegs) :
    ((mulIter m)^[k] w).b = 0 ↔ Nat.size w.b.toNat ≤ k := by
  rw [← BitVec.toNat_inj, mulIter_iterate_b_toNat, Nat.size_le]
  simp

/-- As long as `mul_b` is not used up, the loop iterates. -/
theorem mulLoop_add (m : Word) (f k : Nat) (w : MulRegs) (hk : k ≤ Nat.size w.b.toNat) :
    mulLoop m (f + k) w = mulLoop m f ((mulIter m)^[k] w) := by
  induction k generalizing f with
  | zero => rfl
  | succ k ih =>
    have hb : ((mulIter m)^[k] w).b ≠ 0 := mt (mulIter_iterate_b_eq_zero_iff m k w).mp (by omega)
    rw [show f + (k + 1) = f + 1 + k by omega, ih (f + 1) (by omega), mulLoop_step m f _ hb,
      Function.iterate_succ_apply']

/-- With a bound that is large enough the loop runs once per bit of `mul_b`. -/
theorem mulLoop_eq_iterate (m : Word) {f : Nat} {w : MulRegs} (hf : Nat.size w.b.toNat ≤ f) :
    mulLoop m f w = (mulIter m)^[Nat.size w.b.toNat] w := by
  have hdone := (mulIter_iterate_b_eq_zero_iff m _ w).mpr le_rfl
  rw [← Nat.sub_add_cancel hf, mulLoop_add m _ _ w le_rfl, mulLoop_done m _ _ hdone]

/-- Settles O15: `mul_b` enters as `b mod m`, a word of at most 64 bits, and the loop runs once per bit of it. -/
theorem modMulIterationCount : Obligations.ModMulIterationCount := by
  intro a b m _
  have hb : (mulEnter a b m).b.toNat = b.toNat % m.toNat := remainder_toNat b m
  have hsize : Nat.size (mulEnter a b m).b.toNat ≤ 64 := Nat.size_le.mpr (mulEnter a b m).b.isLt
  have hloop : modMul a b m = (mulIter m)^[Nat.size (mulEnter a b m).b.toNat] (mulEnter a b m) :=
    mulLoop_eq_iterate m hsize
  rw [← hb]
  refine ⟨hsize, hloop, ?_, fun k hk => ?_⟩
  · rw [hloop, mulIter_iterate_b_eq_zero_iff]
  · rwa [Ne, mulIter_iterate_b_eq_zero_iff, not_le]

/-! ### The value and the command (R120, R124) -/

/-- Settles O16: every clause is a form of the one value of ModMul. -/
theorem modMulValue : Obligations.ModMulValue := by
  intro a b m hm
  refine ⟨modMul_toNat a b hm, modMul_lt a b hm, ?_⟩
  simpa using modMul_toNat a 1 hm

/-- Settles O29: MODMUL in contract leaves the registers of ModMul as its loop ends with them, and what it writes to RES
is the value of ModMul. -/
theorem modmulCompletes : Obligations.ModmulCompletes := by
  intro a b m s hm
  have hc : contractFault (.modmul a b m) = none := modulusFault_none.mpr hm
  have hres : (modMul a b m).r = BitVec.ofNat 64 (a.toNat * b.toNat % m.toNat) :=
    (BitVec.toNat_eq_nat.mp (modMul_toNat a b hm)).2
  refine ⟨modMul a b m, ?_⟩
  rw [exec_of_contractFault_none hc, finish, hres, State.setWork, State.complete]

end Sys2Proof.Proofs
end

section
/-! PROOFS. MODPOW: the loop invariants of ModPow and its iteration count, its value, and what it completes with
(43_modpow.md R130 to R134). -/

namespace Sys2Proof.Proofs

open Sys2Proof.Machine

/-! ### The iteration count (R133) -/

/-- An iteration shifts one bit out of `pow_b`. -/
theorem size_powIter_b (m : Word) {w : Work} (hb : w.pow.b ≠ 0) :
    Nat.size (powIter m w).pow.b.toNat + 1 = Nat.size w.pow.b.toNat := by
  have hbit : Nat.bit (w.pow.b.toNat.testBit 0) (w.pow.b.toNat / 2) = w.pow.b.toNat :=
    Nat.bit_testBit_zero_shiftRight_one _
  have hne := (toNat_pos_of_ne_zero hb).ne'
  rw [powIter_b, shiftRight_one_toNat, ← Nat.succ_eq_add_one, ← Nat.size_bit (hbit ▸ hne), hbit]

/-- With a bound that is large enough the loop runs once per bit of `pow_b`. -/
theorem powLoop_eq_iterate (m : Word) {f : Nat} {w : Work} (hf : Nat.size w.pow.b.toNat ≤ f) :
    powLoop m f w = (powIter m)^[Nat.size w.pow.b.toNat] w := by
  induction f generalizing w with
  | zero => rw [Nat.le_zero.mp hf, powLoop_zero, Function.iterate_zero_apply]
  | succ f ih =>
    by_cases h : w.pow.b = 0
    · simp [powLoop_done m _ w h, h]
    · have hsize := size_powIter_b m h
      rw [powLoop_step m f w h, ih (by omega), ← hsize, Function.iterate_succ_apply]

/-- The loop shifts `pow_b` right by its bound; where it stops earlier, no bit is left to shift. -/
theorem powLoop_b_toNat (m : Word) (f : Nat) (w : Work) :
    (powLoop m f w).pow.b.toNat = w.pow.b.toNat / 2 ^ f := by
  induction f generalizing w with
  | zero => simp
  | succ f ih =>
    by_cases h : w.pow.b = 0
    · simp [powLoop_done m _ w h, h]
    · rw [powLoop_step m f w h, ih, powIter_b, shiftRight_one_toNat, Nat.div_div_eq_div_mul, Nat.pow_succ']

theorem modPow_b (a b m : Word) (w : Work) : (modPow a b m w).pow.b = 0 := by
  apply BitVec.eq_of_toNat_eq
  rw [modPow, powLoop_b_toNat]
  exact Nat.div_eq_of_lt (powEnter a b m).b.isLt

/-- Settles O17: the squaring ends below m, an iteration keeps `pow_r * pow_a ^ pow_b` modulo m, and the loop runs
once per bit of the exponent, a word of at most 64 bits. -/
theorem modPowLoopInvariants : Obligations.ModPowLoopInvariants := by
  intro a b m hm
  have hsize : Nat.size b.toNat ≤ 64 := Nat.size_le.mpr b.isLt
  refine ⟨⟨powEnter_a_toNat a b m, rfl, rfl⟩, fun w _ _ => ⟨?_, powIter_b m w, powIter_modEq hm w⟩,
    fun w => ⟨hsize, powLoop_eq_iterate m hsize, modPow_b a b m w⟩⟩
  exact modMul_lt w.pow.a w.pow.a hm

/-! ### The value and the command (R130, R134) -/

/-- Settles O18: an exponent with a set bit gives the power below m; without one the accumulator stays the unreduced
1, also where m = 1. -/
theorem modPowValue : Obligations.ModPowValue := by
  intro a b m w hm
  refine ⟨fun hb => ?_, modPow_zero_r a m w, modPow_zero_r a 1 w⟩
  have hval := modPow_toNat a w hm (.inl hb)
  exact ⟨hval, hval ▸ Nat.mod_lt _ (toNat_pos_of_ne_zero hm)⟩

/-- ModPow writes the registers of its own level and of ModMul only (10_state.md R25). -/
theorem modPow_frame (a b m : Word) (w : Work) :
    ∃ (mul : MulRegs) (pow : PowRegs), modPow a b m w = { w with mul := mul, pow := pow } :=
  ⟨(modPow a b m w).mul, (modPow a b m w).pow, by rw [← modPow_mr a b m w]⟩

/-- Settles O30: MODPOW in contract writes to RES the value of its command, and beside RES and the flags it changes
only what ModPow changes. -/
theorem modpowCompletes : Obligations.ModpowCompletes := by
  intro a b m s hm
  have hc : contractFault (.modpow a b m) = none := modulusFault_none.mpr hm
  have hres : (modPow a b m s.work).pow.r = if b = 0 then 1 else BitVec.ofNat 64 (a.toNat ^ b.toNat % m.toNat) :=
    finish_res hc s
  obtain ⟨mul, pow, hwork⟩ := modPow_frame a b m s.work
  refine ⟨mul, pow, ?_⟩
  rw [exec_of_contractFault_none hc, finish, hres, hwork, State.setWork, State.complete]

end Sys2Proof.Proofs
end

section
/-! PROOFS. MILLER_RABIN step by step: the purity of ModPow, the values of the decomposition, the exponent of the inner
loop, the closed form, and the base the witness loop stops at (44_miller_rabin.md R142 to R149, R153). -/

namespace Sys2Proof.Proofs

open Sys2Proof.Machine Sys2Proof.Safety

/-! ### ModPow is a function of its operands (R153) -/

/-- The registers of ModPow are computed from one another: the other working registers do not enter. -/
theorem powIter_pow_congr (m : Word) {w w' : Work} (h : w.pow = w'.pow) :
    (powIter m w).pow = (powIter m w').pow := by
  simp only [powIter, h]

theorem powLoop_pow_congr (m : Word) (f : Nat) {w w' : Work} (h : w.pow = w'.pow) :
    (powLoop m f w).pow = (powLoop m f w').pow := by
  induction f generalizing w w' with
  | zero => exact h
  | succ f ih =>
    by_cases hb : w.pow.b = 0
    · rw [powLoop_done m _ w hb, powLoop_done m _ w' (h ▸ hb), h]
    · rw [powLoop_step m f w hb, powLoop_step m f w' (h ▸ hb)]
      exact ih (powIter_pow_congr m h)

theorem modPow_pow_congr (a b m : Word) (w w' : Work) : (modPow a b m w).pow = (modPow a b m w').pow :=
  powLoop_pow_congr m 64 rfl

/-- The comparison value of an iteration is ModPow of the recomputed x and of `mr_e` (R146, R153). -/
theorem innerIter_y (a : Word) (j : Nat) (w : Work) :
    (innerIter a j w).mr.y =
      (modPow (modPow a w.mr.temp w.mr.n w).pow.r (innerIter a j w).mr.e w.mr.n w).pow.r := by
  simp only [innerIter, computeY_mr, computeE_mr]
  rw [modPow_pow_congr a _ _ _ w, modPow_pow_congr _ _ _ _ w]

/-- Settles O19: ModPow enters with its own registers set from the operands, and an iteration reads no others. -/
theorem modPowIsPure : Obligations.ModPowIsPure := by
  refine ⟨fun a b m w w' => ⟨modPow_pow_congr a b m w w', modPow_mr a b m w⟩, fun a j w hx => ?_⟩
  rw [innerIter_y, ← hx]

/-! ### The decomposition (R142) -/

section
variable {n : Word} (hn : 1 < n.toNat)
include hn

theorem oddPart_odd : oddPart n % 2 = 1 := by
  obtain ⟨-, hset, -⟩ := twoExponent_spec hn
  have hbit : (oddPart n).testBit 0 = true := by
    rw [oddPart, Nat.testBit_shiftRight, BitVec.testBit_toNat]
    exact hset
  simpa [Nat.testBit_zero] using hbit

/-- The bits below the lowest set one are 0, so shifting them out divides exactly. -/
theorem two_pow_mul_oddPart : 2 ^ twoExponent n * oddPart n = n.toNat - 1 := by
  obtain ⟨-, -, hlow⟩ := twoExponent_spec hn
  have hdvd : 2 ^ twoExponent n ∣ (n - 1).toNat := by
    refine Nat.dvd_of_mod_eq_zero (Nat.eq_of_testBit_eq fun i => ?_)
    rw [Nat.testBit_mod_two_pow, BitVec.testBit_toNat, Nat.zero_testBit]
    by_cases hi : i < twoExponent n
    · rw [hlow i hi, Bool.and_false]
    · simp [hi]
  rw [oddPart, Nat.shiftRight_eq_div_pow, Nat.mul_div_cancel' hdvd, pred_toNat hn]

theorem decompose_temp (w : MrRegs) : (decompose n w).temp = (n - 1) >>> twoExponent n := by
  rw [decompose_eq hn]

theorem decompose_temp_toNat (w : MrRegs) : (decompose n w).temp.toNat = oddPart n := by
  rw [decompose_temp hn, BitVec.toNat_ushiftRight, oddPart]

theorem decompose_k_toNat (w : MrRegs) : (decompose n w).k.toNat = twoExponent n + 1 := by
  have hk := (decomposed_decompose hn w).count
  rwa [decompose_eq hn] at hk ⊢

/-- n - 1 is even for an odd candidate. -/
theorem twoExponent_pos (hodd : n.toNat % 2 = 1) : 1 ≤ twoExponent n := by
  by_contra h
  have hzero : twoExponent n = 0 := by omega
  have hprod := two_pow_mul_oddPart hn
  have hq := oddPart_odd hn
  rw [hzero, pow_zero, one_mul] at hprod
  omega

theorem oddPart_le_half (hodd : n.toNat % 2 = 1) : oddPart n ≤ (n.toNat - 1) / 2 := by
  rw [Nat.le_div_iff_mul_le (by decide), ← two_pow_mul_oddPart hn, Nat.mul_comm]
  exact Nat.mul_le_mul_right _ (Nat.pow_le_pow_right Nat.two_pos (twoExponent_pos hn hodd))

/-- The largest count of shifts leaves room for q = 1 only. -/
theorem eq_of_twoExponent_eq (h : twoExponent n = 63) : n.toNat = 2 ^ 63 + 1 := by
  have hprod := two_pow_mul_oddPart hn
  have hpos := oddPart_ne_zero hn
  have hlt := n.isLt
  rw [h] at hprod
  omega

end

theorem twoExponent_largest : twoExponent 0x8000000000000001 = 63 := by decide

/-- Settles O20: Decompose leaves s + 1 and q, n - 1 is their product, and the ranges follow from n being a word. -/
theorem decompositionValues : Obligations.DecompositionValues := by
  refine ⟨fun n w hn => ?_, fun n w hodd h3 => ?_, fun w => ?_⟩
  · obtain ⟨hlt, -, -⟩ := twoExponent_spec hn
    refine ⟨decompose_k_toNat hn w, decompose_temp hn w, ?_, ?_, Nat.le_of_lt_succ hlt⟩
    · rw [decompose_temp_toNat hn, oddPart_odd hn]
    · rw [decompose_temp_toNat hn, decompose_k_toNat hn, Nat.add_sub_cancel, two_pow_mul_oddPart hn]
  · have hn : 1 < n.toNat := by omega
    obtain ⟨hlt, -, -⟩ := twoExponent_spec hn
    have hpos := twoExponent_pos hn hodd
    rw [decompose_k_toNat hn, decompose_temp_toNat hn]
    exact ⟨hpos, by omega, by omega, Nat.pos_of_ne_zero (oddPart_ne_zero hn), oddPart_le_half hn hodd,
      fun h => eq_of_twoExponent_eq hn (by omega)⟩
  · have hn : 1 < (0x8000000000000001 : Word).toNat := by decide
    rw [decompose_k_toNat hn, decompose_temp hn, twoExponent_largest]
    decide

/-! ### The exponent of the inner loop (R146) -/

/-- Settles O21: ModPow(2, j, n) is `2^j mod n`, and `2^j` is below n. -/
theorem innerExponentIsPowerOfTwo : Obligations.InnerExponentIsPowerOfTwo := by
  intro n j w _ h3 hj
  have hn : 1 < n.toNat := by omega
  have hlt := two_pow_lt_of_lt_twoExponent hn hj
  obtain ⟨hs, -, -⟩ := twoExponent_spec hn
  refine ⟨hlt, ?_⟩
  have hpow := modPow_toNat_of_one_lt hn 2 (BitVec.ofNat 64 j) w
  rw [BitVec.toNat_ofNat, Nat.mod_eq_of_lt (by omega : j < 2 ^ 64)] at hpow
  exact hpow.trans (Nat.mod_eq_of_lt hlt)

/-! ### The closed form (R149) -/

theorem millerRabin_composite_iff {n : Word} (hn : 1 < n.toNat) (w : Work) :
    (millerRabin n w).1 = .composite ↔ ¬ SomeBasePasses n := by
  rw [← millerRabin_prime_iff hn w]
  cases (millerRabin n w).1 <;> simp

/-- Settles O22: the statement writes q as the word `mr_temp` holds. -/
theorem millerRabinClosedForm : Obligations.MillerRabinClosedForm := by
  intro n w _ h3
  have hn : 1 < n.toNat := by omega
  have hq : ((n - 1) >>> trailingZeros (n - 1)).toNat = oddPart n := BitVec.toNat_ushiftRight _ _
  rw [hq]
  exact ⟨millerRabin_prime_iff hn w, millerRabin_composite_iff hn w⟩

/-! ### The base the loop stops at (R143, R145, R147) -/

/-- The result `r` of the witness loop over `l` says that the loop stopped at base `i`: none before `i` passes, PRIME
is the answer when `i` does, and COMPOSITE when the last base fails too. -/
structure StoppedAt (n : Word) (l : List (Fin 12)) (i : Fin 12) (r : Verdict × Work) : Prop where
  index     : r.2.mr.i = BitVec.ofNat 4 i.val
  earlier   : ∀ j ∈ l, j < i → ¬ BasePasses n (romRead j)
  prime     : r.1 = .prime → BasePasses n (romRead i)
  composite : r.1 = .composite → (∀ j ∈ l, j ≤ i) ∧ ¬ BasePasses n (romRead i)

/-- A base that fails, before all of `l`, is one more base that the loop over `l` has passed by. -/
theorem StoppedAt.cons {n : Word} {l : List (Fin 12)} {i k : Fin 12} {r : Verdict × Work} (h : StoppedAt n l i r)
    (hk : k < i) (hfail : ¬ BasePasses n (romRead k)) : StoppedAt n (k :: l) i r where
  index := h.index
  earlier := List.forall_mem_cons.mpr ⟨fun _ => hfail, h.earlier⟩
  prime := h.prime
  composite hr := ⟨List.forall_mem_cons.mpr ⟨hk.le, (h.composite hr).1⟩, (h.composite hr).2⟩

/-- The loop goes on exactly while bases fail, so over indexes in rising order it stops at the first that passes, or at
the last. -/
theorem exists_stoppedAt_witnessLoop {n : Word} (hn : 1 < n.toNat) {l : List (Fin 12)} (hl : l ≠ [])
    (hsorted : l.Pairwise (· < ·)) {w : Work} (hw : Decomposed n w.mr) :
    ∃ i ∈ l, StoppedAt n l i (witnessLoop l w) := by
  induction l generalizing w with
  | nil => exact absurd rfl hl
  | cons k rest ih =>
    obtain ⟨hfirst, hrest⟩ := List.pairwise_cons.mp hsorted
    have hpass := testBase_passes_iff hn k hw
    rw [witnessLoop_cons]
    split
    · next h =>
      refine ⟨k, List.mem_cons_self, testBase_i k w, ?_, fun _ => hpass.mp h, nofun⟩
      exact List.forall_mem_cons.mpr ⟨fun hk => absurd hk (lt_irrefl k),
        fun j hj hk => absurd hk (hfirst j hj).asymm⟩
    · next h =>
      have hfail := mt hpass.mpr h
      by_cases hnil : rest = []
      · subst hnil
        exact ⟨k, List.mem_cons_self, testBase_i k w, by simp, nofun, fun _ => ⟨by simp, hfail⟩⟩
      · obtain ⟨i, hi, hstop⟩ := ih hnil hrest (decomposed_testBase hw k)
        exact ⟨i, List.mem_cons_of_mem k hi, hstop.cons (hfirst i hi) hfail⟩

/-- Settles O23: the loop over the ROM's indexes, in their order, stops at one of them. -/
theorem firstPassingBaseEndsTheLoop : Obligations.FirstPassingBaseEndsTheLoop := by
  intro n w _ h3
  have hn : 1 < n.toNat := by omega
  have hall : ∀ i : Fin 12, i ∈ romIndexes := by decide
  obtain ⟨i, -, hstop⟩ := exists_stoppedAt_witnessLoop hn (l := romIndexes) (by decide) (by decide)
    (w := { w with mr := decompose n { w.mr with n := n } }) (decomposed_decompose hn w.mr)
  refine ⟨i, hstop.index, fun j hj => hstop.earlier j (hall j) hj, hstop.prime, fun hr => ?_⟩
  obtain ⟨hlast, hfail⟩ := hstop.composite hr
  have h11 : 11 ≤ i.val := hlast 11 (hall 11)
  exact ⟨by omega, hfail⟩

end Sys2Proof.Proofs
end

section
/-! PROOFS. MILLER_RABIN as a command: what it answers in contract, why a prime candidate is answered PRIME, and the
fault out of contract (44_miller_rabin.md R140, R150, R152, R156). -/

namespace Sys2Proof.Proofs

open Sys2Proof.Machine Sys2Proof.Safety

/-! ### Every base that a prime does not divide passes (R152) -/

/-- The fact behind the Miller-Rabin test: where 1 has no square roots but 1 and -1, squaring can reach 1 from 1 or
from -1 only. -/
theorem eq_one_or_exists_pow_eq_neg_one {R : Type} [CommRing R] [NoZeroDivisors R] {x : R} {s : Nat}
    (h : x ^ 2 ^ s = 1) : x = 1 ∨ ∃ j < s, x ^ 2 ^ j = -1 := by
  induction s with
  | zero => exact .inl (by simpa using h)
  | succ s ih =>
    rw [pow_succ, pow_mul, sq_eq_one_iff] at h
    obtain hone | hneg := h
    · obtain hx | ⟨j, hj, hx⟩ := ih hone
      · exact .inl hx
      · exact .inr ⟨j, hj.trans s.lt_succ_self, hx⟩
    · exact .inr ⟨s, s.lt_succ_self, hneg⟩

theorem mod_eq_of_natCast_eq {n x r : Nat} (hr : r < n) (h : (x : ZMod n) = (r : ZMod n)) : x % n = r :=
  ((ZMod.natCast_eq_natCast_iff' x r n).mp h).trans (Nat.mod_eq_of_lt hr)

/-- `a^(q * 2^s)` is `a^(n-1)`, which is 1 modulo a prime n by Fermat's little theorem. -/
theorem basePasses_of_prime {n a : Word} (hp : n.toNat.Prime) (ha : ¬ n.toNat ∣ a.toNat) : BasePasses n a := by
  have : Fact n.toNat.Prime := ⟨hp⟩
  have hfermat : (((a.toNat : ZMod n.toNat) ^ oddPart n) ^ 2 ^ twoExponent n) = 1 := by
    rw [← pow_mul, Nat.mul_comm, two_pow_mul_oddPart hp.one_lt]
    exact ZMod.pow_card_sub_one_eq_one (mt (ZMod.natCast_eq_zero_iff _ _).mp ha)
  obtain hone | ⟨j, hj, hneg⟩ := eq_one_or_exists_pow_eq_neg_one hfermat
  · have hcast : ((a.toNat ^ oddPart n : Nat) : ZMod n.toNat) = (1 : Nat) := by simpa using hone
    exact .inl (mod_eq_of_natCast_eq hp.one_lt hcast)
  · have hcast : ((a.toNat ^ (oddPart n * 2 ^ j) : Nat) : ZMod n.toNat) = (n.toNat - 1 : Nat) := by
      simpa [pow_mul, hp.one_le] using hneg
    exact .inr ⟨j, hj, mod_eq_of_natCast_eq (Nat.pred_lt hp.ne_zero) hcast⟩

/-- Base 2 passes for every prime above 3 (R152). -/
theorem someBasePasses_of_prime {n : Word} (hp : n.toNat.Prime) (h3 : 3 < n.toNat) : SomeBasePasses n :=
  ⟨0, basePasses_of_prime hp (Nat.not_dvd_of_pos_of_lt (by decide) (Nat.lt_of_succ_lt h3))⟩

/-! ### The contract and the answer word (R77, R150) -/

theorem candidateFault_none_iff {n : Word} : candidateFault n = none ↔ n.toNat % 2 = 1 ∧ 3 < n.toNat := by
  rw [candidateFault_none, ← bit0_eq_true_iff, bit0, beq_iff_eq]
  rfl

theorem classify_code (n : Word) : (classify n).code = if SomeBasePasses n then 1 else 0 := by
  unfold classify
  split <;> rfl

/-- Settles O31: in contract the command ends in COMPLETE with its value, which is the code of the closed form. -/
theorem millerRabinCompletes : Obligations.MillerRabinCompletes := by
  intro n s hodd h3
  have hc : contractFault (.millerRabin n) = none := candidateFault_none_iff.mpr ⟨hodd, h3⟩
  obtain ⟨work, hfinish⟩ := finish_eq_complete hc s
  refine ⟨work, ?_⟩
  rw [exec_of_contractFault_none hc, hfinish, commandValue, classify_code, State.setWork, State.complete]

/-- Settles O24: a prime above 3 is odd, so in contract, and base 2 passes. -/
theorem everyPrimeIsAnsweredPrime : Obligations.EveryPrimeIsAnsweredPrime := by
  intro n s hp h3
  have hodd : n.toNat % 2 = 1 := hp.eq_two_or_odd.resolve_left (by omega)
  obtain ⟨work, hexec⟩ := millerRabinCompletes n s hodd h3
  exact ⟨_, hexec, if_pos (someBasePasses_of_prime hp h3)⟩

/-- Settles O25: a next state comes from a candidate in contract, and there 0 says that no base passes. -/
theorem compositeAnswerIsConclusive : Obligations.CompositeAnswerIsConclusive := by
  intro n s t h
  obtain ⟨hc, rfl⟩ := exec_next h
  obtain ⟨-, h3⟩ := candidateFault_none_iff.mp hc
  rw [finish_res hc, commandValue, classify_code]
  split
  · exact ⟨fun h0 => absurd h0 (by decide), .inr rfl⟩
  · next hnone => exact ⟨fun _ hp => hnone (someBasePasses_of_prime hp h3), .inl rfl⟩

/-- Settles O33: an even candidate, or one of at most 3, fails the contract test. -/
theorem candidateOutOfContractFaults : Obligations.CandidateOutOfContractFaults := by
  intro n s h
  have hc : candidateFault n ≠ none := by
    rw [Ne, candidateFault_none_iff]
    omega
  obtain ⟨f, hf⟩ := Option.ne_none_iff_exists'.mp hc
  obtain ⟨-, rfl⟩ := candidateFault_some.mp hf
  exact exec_of_contractFault_some (.millerRabin n) hf s

/-! ### 5 and 9 (R156; 90_conflicts.md C3) -/

/-- The base 17 at index 6 is 8 modulo 9, which is n - 1, so the composite 9 passes at j = 0. -/
theorem basePasses_nine_seventeen : BasePasses 9 (romRead 6) := .inr ⟨0, by decide, by decide⟩

/-- Settles O26: 5 is a prime above 3, and base 17 passes for 9. -/
theorem fiveAndNineAreAnsweredPrime : Obligations.FiveAndNineAreAnsweredPrime := fun w =>
  ⟨(millerRabin_prime_iff (by decide) w).mpr (someBasePasses_of_prime (by decide : Nat.Prime 5) (by decide)),
    (millerRabin_prime_iff (by decide) w).mpr ⟨6, basePasses_nine_seventeen⟩⟩

end Sys2Proof.Proofs
end

section
/-! PROOFS. The protocol states and the transitions between them: once what one edge does, by name, and what follows
for the flags, the responses taken and the host's counts (45_command_protocol.md R160 to R165). -/

namespace Sys2Proof.Proofs

open Sys2Proof.Machine Sys2Proof.Safety

/-! ### The flags -/

theorem cmdReady_iff {s : State} : s.cmdReady = true ↔ s.busy = false ∧ s.rspValid = false := by
  simp [State.cmdReady]

theorem cmdReady_eq_false_iff {s : State} : s.cmdReady = false ↔ s.busy = true ∨ s.rspValid = true := by
  cases hb : s.busy <;> simp [State.cmdReady, hb]

theorem isIdle_iff {s : State} : s.isIdle = true ↔ s.busy = false ∧ s.rspValid = false := by
  simp [State.isIdle]

theorem isBusy_iff {s : State} : s.isBusy = true ↔ s.busy = true ∧ s.rspValid = false := by
  simp [State.isBusy]

theorem isDone_iff {s : State} : s.isDone = true ↔ s.busy = false ∧ s.rspValid = true := by
  simp [State.isDone]

/-! ### One edge, by name -/

/-- What the coming edge makes of the unit `s`: the four transitions of R160, and the four ways to stay in a protocol
state. -/
inductive Transition (s : State) : State → Prop where
  | reset (hr : s.edgeIn.rst = true) : Transition s s.popEdge.resetEdge
  | accept (hr : s.edgeIn.rst = false) (hb : s.busy = false) (hv : s.rspValid = false)
      (hc : s.edgeIn.cmdValid = true) : Transition s (s.popEdge.accept s.edgeIn.cmd)
  | idle (hr : s.edgeIn.rst = false) (hb : s.busy = false) (hv : s.rspValid = false)
      (hc : s.edgeIn.cmdValid = false) : Transition s s.popEdge
  | wait (hr : s.edgeIn.rst = false) (hb : s.busy = true) (k : Nat) (hw : s.wait = k + 1) :
      Transition s (s.popEdge.waitOn k)
  | offence (hr : s.edgeIn.rst = false) (hb : s.busy = true) (hw : s.wait = 0) (hm : packetMark s.latched ≠ none) :
      Transition s s.popEdge
  | complete (hr : s.edgeIn.rst = false) (hb : s.busy = true) (hw : s.wait = 0) (i : Instr)
      (hd : decode s.latched = .command i) (hc : contractFault i = none) (work : Work) :
      Transition s ((s.popEdge.setWork work).complete (commandValue i))
  | take (hr : s.edgeIn.rst = false) (hb : s.busy = false) (hv : s.rspValid = true)
      (ht : s.edgeIn.rspReady = true) : Transition s s.popEdge.take
  | hold (hr : s.edgeIn.rst = false) (hb : s.busy = false) (hv : s.rspValid = true)
      (ht : s.edgeIn.rspReady = false) : Transition s s.popEdge

theorem transition_doneEdge {s : State} (hr : s.edgeIn.rst = false) (hb : s.busy = false) (hv : s.rspValid = true) :
    Transition s (doneEdge s.edgeIn s.popEdge) := by
  unfold doneEdge
  split
  · next ht => exact .take hr hb hv ht
  · next ht => exact .hold hr hb hv (Bool.eq_false_iff.mpr ht)

theorem transition_idleEdge {s : State} (hr : s.edgeIn.rst = false) (hb : s.busy = false) (hv : s.rspValid = false) :
    Transition s (idleEdge s.edgeIn s.popEdge) := by
  unfold idleEdge
  split
  · next hc => exact .accept hr hb hv hc
  · next hc => exact .idle hr hb hv (Bool.eq_false_iff.mpr hc)

/-- A step that answers a next state is one of the named transitions. -/
theorem transition_of_step {s t : State} (h : step s = .next t) : Transition s t := by
  obtain ⟨hr, rfl⟩ | ⟨hr, hb, hbusy⟩ | ⟨hr, hb, hv, rfl⟩ | ⟨hr, hb, hv, rfl⟩ := step_cases h
  · exact .reset hr
  · obtain ⟨k, hw, rfl⟩ | ⟨hw, hm, rfl⟩ | ⟨hw, i, hd, hc, rfl⟩ := hbusy
    · exact .wait hr hb k hw
    · exact .offence hr hb hw hm
    · obtain ⟨work, hfinish⟩ := finish_eq_complete hc s.popEdge
      rw [hfinish]
      exact .complete hr hb hw i hd hc work
  · exact transition_doneEdge hr hb hv
  · exact transition_idleEdge hr hb hv

/-- Every edge consumes the inputs the host drives at it. -/
theorem Transition.inputs_eq {s t : State} (h : Transition s t) : t.inputs = s.inputs.tail := by
  cases h <;> rfl

/-! ### The protocol states -/

/-- Settles O48: the flags name the protocol state, and each transition sets them as R160 says. -/
theorem onlyListedTransitions : Obligations.OnlyListedTransitions := by
  intro s hflags
  simp only [isIdle_iff, isBusy_iff, isDone_iff]
  have hv_of_busy (hb : s.busy = true) : s.rspValid = false := Bool.eq_false_iff.mpr fun hv => hflags ⟨hb, hv⟩
  refine ⟨?_, fun t h => ?_⟩
  · cases hb : s.busy with
    | true => simp [hv_of_busy hb]
    | false => cases s.rspValid <;> simp
  · cases transition_of_step h with
    | reset hr => simp [hr]
    | accept hr hb hv hc => simp [hr, hb, hv, hc]
    | idle hr hb hv hc => simp [hr, hb, hv, hc]
    | wait hr hb k hw => simp [hr, hb, hv_of_busy hb]
    | offence hr hb hw hm => simp [hr, hb, hv_of_busy hb]
    | complete hr hb hw i hd hc work => simp [hr, hb, hv_of_busy hb]
    | take hr hb hv ht => simp [hr, hb, hv, ht]
    | hold hr hb hv ht => simp [hr, hb, hv, ht]

/-- Settles O49: TAKE alone appends to the host's list, and it clears RSP_VALID. -/
theorem responsesAreTakenOneAtATime : Obligations.ResponsesAreTakenOneAtATime := by
  intro s t h
  cases transition_of_step h with
  | take hr hb hv ht => exact .inr ⟨rfl, hv, rfl, ht, hr⟩
  | reset | accept | idle | wait | offence | complete | hold => exact .inl rfl

/-! ### The host's counts (log 21) -/

/-- ACCEPT opens a command, TAKE closes the last one, and COMPLETE leaves open what was open. -/
theorem Transition.countsRight {s t : State} (h : Transition s t) (hs : CountsRight s) : CountsRight t := by
  obtain ⟨hle, hlt⟩ := hs
  cases h with
  | reset hr => exact ⟨hle, by simp⟩
  | accept => exact ⟨Nat.le_succ_of_le hle, fun _ => Nat.lt_succ_of_le hle⟩
  | idle | wait | offence | hold => exact ⟨hle, hlt⟩
  | complete hr hb => exact ⟨hle, fun _ => hlt (.inl hb)⟩
  | take hr hb => exact ⟨le_rfl, by simp [hb]⟩

/-- Settles O60: ACCEPT and TAKE are the two transitions that write a count. -/
theorem countsFollowTheProtocol : Obligations.CountsFollowTheProtocol := by
  intro s t h
  have htrans := transition_of_step h
  refine ⟨?_, htrans.countsRight⟩
  simp only [cmdReady_iff]
  cases htrans with
  | accept hr hb hv hc => exact .inl ⟨hr, ⟨hb, hv⟩, hc, rfl, rfl⟩
  | take hr hb hv ht => exact .inr (.inl ⟨hr, hb, hv, ht, rfl, rfl⟩)
  | reset hr => exact .inr (.inr ⟨by simp [hr], by simp [hr], rfl, rfl⟩)
  | idle hr hb hv hc => exact .inr (.inr ⟨by simp [hc], by simp [hv], rfl, rfl⟩)
  | wait hr hb | offence hr hb | complete hr hb => exact .inr (.inr ⟨by simp [hb], by simp [hb], rfl, rfl⟩)
  | hold hr hb hv ht => exact .inr (.inr ⟨by simp [hv], by simp [ht], rfl, rfl⟩)

end Sys2Proof.Proofs
end

section
/-! PROOFS. What one edge does in each protocol state: the command in flight waits, executes and completes; ACCEPT
latches, TAKE hands over (45_command_protocol.md R161 to R164). -/

namespace Sys2Proof.Proofs

open Sys2Proof.Machine Sys2Proof.Safety

/-! ### The command in flight -/

/-- Nothing is to be recorded exactly for a packet in contract (60 R172). -/
theorem packetMark_eq_none_iff {p : Packet} : packetMark p = none ↔ InContract p := by
  obtain ⟨i, hd, -⟩ | ⟨hd, -⟩ := decode_cases p
  · simp [packetMark, InContract, hd]
  · simp [packetMark, InContract, hd]

theorem contractFault_of_exec_fault {i : Instr} {s : State} {f : Fault} (h : exec i s = .fault f) :
    contractFault i = some f :=
  endCommand_fault.mp ((exec_eq_endCommand i s).symm.trans h)

/-- The edge at which a command is due runs its meaning on the state past the edge (R162). -/
theorem step_due {s : State} {i : Instr} (hr : s.edgeIn.rst = false) (hb : s.busy = true) (hw : s.wait = 0)
    (hd : decode s.latched = .command i) : step s = completeOrStay s.popEdge (exec i s.popEdge) :=
  (step_busy hr hb).trans (busyEdge_command hw hd)

/-- A command in contract comes to its end at the edge it is due (R163). -/
theorem step_finish {s : State} {i : Instr} (hr : s.edgeIn.rst = false) (hb : s.busy = true) (hw : s.wait = 0)
    (hd : decode s.latched = .command i) (hc : contractFault i = none) : step s = .next (finish i s.popEdge) := by
  rw [step_due hr hb hw hd, exec_of_contractFault_none hc, completeOrStay]

theorem step_wait {s : State} {k : Nat} (hr : s.edgeIn.rst = false) (hb : s.busy = true) (hw : s.wait = k + 1) :
    step s = .next (s.popEdge.waitOn k) :=
  (step_busy hr hb).trans (busyEdge_wait hw)

/-- Settles O36: each clause is one outcome of the meaning at the due edge. -/
theorem stepExecutesTheLatchedCommand : Obligations.StepExecutesTheLatchedCommand := by
  intro s i hb hr hw hd
  refine ⟨fun t h => ?_, fun f h => ?_, exec_not_refused i s.popEdge⟩
  · rw [step_due hr hb hw hd, h, completeOrStay]
  · rw [step_due hr hb hw hd, h, completeOrStay]

/-- Settles O38: the command in flight waits one edge more. -/
theorem busyEdgeWaits : Obligations.BusyEdgeWaits :=
  fun _ _ hb hr hw _ => step_wait hr hb hw

/-! ### A table word placed for the next step (log 12) -/

theorem decode_tablePacket {nbits w : Nat} {i : Instr} (h : decodeTableWord nbits w = some i) :
    decode (tablePacket nbits w) = .command i := by
  unfold decodeTableWord at h
  split at h
  · cases hd : decode (tablePacket nbits w) with
    | command j =>
      rw [hd] at h
      exact congrArg Decoded.command (Option.some.inj h)
    | reserved op =>
      rw [hd] at h
      cases h
  · cases h

/-- The placed word is due at a quiet edge, past which the unit is the one its packet was loaded into. -/
theorem step_withFetchWord {nbits w : Nat} {i : Instr} (s : State) (h : decodeTableWord nbits w = some i) :
    step (s.withFetchWord nbits w) =
      completeOrStay (s.loadCommand (tablePacket nbits w)) (exec i (s.loadCommand (tablePacket nbits w))) := by
  have hr : (s.withFetchWord nbits w).edgeIn.rst = false := by
    rw [State.withFetchWord, State.quietEdge_edgeIn]
    rfl
  have hd : decode (s.withFetchWord nbits w).latched = .command i := by
    refine .trans (congrArg decode ?_) (decode_tablePacket h)
    exact State.latched_loadCommand s (tablePacket nbits w)
  rw [step_due hr rfl rfl hd, State.withFetchWord, State.quietEdge_popEdge]

/-- Settles O37: the step runs the meaning on the loaded unit; a fault it ends in was recorded when the packet was
loaded. -/
theorem fetchedWordRunsAtTheNextStep : Obligations.FetchedWordRunsAtTheNextStep := by
  intro s nbits w i hi
  refine ⟨fun t h => ?_, fun f h => ⟨?_, ?_⟩⟩
  · rw [step_withFetchWord s hi, h, completeOrStay]
  · rw [step_withFetchWord s hi, h, completeOrStay]
  · have hmark := packetMark_command (decode_tablePacket hi)
    rw [contractFault_of_exec_fault h] at hmark
    simp [hmark]

/-! ### COMPLETE (R162, R163) -/

/-- The command OPC selects, on the operand registers. -/
theorem decode_latched (s : State) :
    (s.opc = 0 → decode s.latched = .command (.modadd s.opa s.opb s.opm)) ∧
    (s.opc = 1 → decode s.latched = .command (.modsub s.opa s.opb s.opm)) ∧
    (s.opc = 2 → decode s.latched = .command (.modmul s.opa s.opb s.opm)) ∧
    (s.opc = 3 → decode s.latched = .command (.modpow s.opa s.opb s.opm)) ∧
    (s.opc = 4 → decode s.latched = .command (.millerRabin s.opa)) := by
  refine ⟨fun h => ?_, fun h => ?_, fun h => ?_, fun h => ?_, fun h => ?_⟩ <;>
    simp [State.latched_eq, decode, packet_op, packet_a, packet_b, packet_m, h]

theorem code_eq_ite (v : Verdict) : v.code = if v = .prime then 1 else 0 := by cases v <;> rfl

/-- Settles O39: in contract the due edge is the end of the latched command, which writes the value of the function
OPC selects. -/
theorem completeWritesTheSelectedFunction : Obligations.CompleteWritesTheSelectedFunction := by
  intro s hb hr hw hm
  obtain ⟨i, hd, hc⟩ := packetMark_eq_none_iff.mp hm
  obtain ⟨work, v, hfinish⟩ := finish_eq i s.popEdge
  have hselects {j : Instr} (hj : decode s.latched = .command j) : v = (finish j s.popEdge).res := by
    cases hd.symm.trans hj
    rw [hfinish, State.complete_res]
  obtain ⟨hadd, hsub, hmul, hpow, hprime⟩ := decode_latched s
  refine ⟨v, work, ?_, fun h => hselects (hadd h), fun h => hselects (hsub h), fun h => hselects (hmul h),
    fun h => hselects (hpow h), fun h => (hselects (hprime h)).trans (code_eq_ite _)⟩
  rw [step_finish hr hb hw hd hc, hfinish]
  rfl

/-! ### ACCEPT and TAKE (R161, R164) -/

/-- While `cmd_ready` = 0 an edge reads `rst` and `rsp_ready` alone. -/
theorem clockEdge_congr {s : State} {e e' : PortIn} (hready : s.cmdReady = false) (hr : e.rst = e'.rst)
    (ht : e.rspReady = e'.rspReady) : clockEdge e s = clockEdge e' s := by
  have hdone : doneEdge e s = doneEdge e' s := by rw [doneEdge, doneEdge, ht]
  unfold clockEdge
  rw [hr, hdone]
  obtain hb | hv := cmdReady_eq_false_iff.mp hready
  · rw [if_pos hb, if_pos hb]
  · rw [if_pos hv, if_pos hv]

/-- Settles O40: the edge is ACCEPT when the unit is ready, and otherwise reads neither `cmd_valid` nor `cmd`. -/
theorem acceptLatchesThePacket : Obligations.AcceptLatchesThePacket :=
  ⟨fun _ hr hc hready => ⟨_, _, _, step_accept hr hc hready⟩, fun _ _ _ => clockEdge_congr⟩

theorem step_take {s : State} (hr : s.edgeIn.rst = false) (hb : s.busy = false) (hv : s.rspValid = true)
    (ht : s.edgeIn.rspReady = true) : step s = .next s.popEdge.take := by
  rw [step_done hr hb hv, doneEdge, if_pos ht]

theorem step_hold {s : State} (hr : s.edgeIn.rst = false) (hb : s.busy = false) (hv : s.rspValid = true)
    (ht : s.edgeIn.rspReady = false) : step s = .next s.popEdge := by
  rw [step_done hr hb hv, doneEdge, if_neg (Bool.eq_false_iff.mp ht)]

/-- Settles O44: the edge is TAKE when the host is ready, and otherwise the response is held. -/
theorem takeHandsOverTheResponse : Obligations.TakeHandsOverTheResponse :=
  fun _ hr hb hv => ⟨fun ht => ⟨_, step_take hr hb hv ht⟩, step_hold hr hb hv⟩

end Sys2Proof.Proofs
end

section
/-! PROOFS. Commands from ACCEPT to TAKE, and runs of several of them (45_command_protocol.md R165 to R167;
70_reset_and_hazards.md R191, R200). -/

namespace Sys2Proof.Proofs

open Sys2Proof.Machine Sys2Proof.Safety

/-! ### The inputs of a run, edge by edge -/

theorem edgeIn_of_inputs {s : State} {e : PortIn} {rest : List PortIn} (h : s.inputs = e :: rest) : s.edgeIn = e := by
  rw [State.edgeIn, h, List.headD_cons]

theorem tail_of_inputs {s : State} {e : PortIn} {rest : List PortIn} (h : s.inputs = e :: rest) :
    s.inputs.tail = rest := by
  rw [h, List.tail_cons]

theorem runEdges_one {s t : State} (h : step s = .next t) : runEdges 1 s = .next t := by
  rw [runEdges_succ 0 h, runEdges_zero]

/-- One more edge at the end of a run. -/
theorem runEdges_concat {s t u : State} {k : Nat} (h : runEdges k s = .next t) (hstep : step t = .next u) :
    runEdges (k + 1) s = .next u := by
  rw [runEdges_add k 1 h, runEdges_one hstep]

/-- Every edge answers a next state, by one of the named transitions (R170). -/
theorem exists_transition (s : State) : ∃ t, step s = .next t ∧ Transition s t := by
  suffices h : ∃ t, step s = .next t from h.imp fun _ ht => ⟨ht, transition_of_step ht⟩
  cases hr : s.edgeIn.rst with
  | true => exact ⟨_, step_reset hr⟩
  | false =>
    cases hb : s.busy with
    | true =>
      rw [step_busy hr hb]
      obtain ⟨k, -, h⟩ | ⟨-, -, h⟩ | ⟨-, i, -, -, h⟩ := busyEdge_cases s.popEdge
      · exact ⟨_, h⟩
      · exact ⟨_, h⟩
      · exact ⟨_, h⟩
    | false =>
      cases hv : s.rspValid with
      | true => exact ⟨_, step_done hr hb hv⟩
      | false => exact ⟨_, step_idle hr hb hv⟩

/-- What every transition keeps at edges at which the host drives only what `Q` allows, the whole run keeps. -/
theorem exists_runEdges_of_invariant {P : State → Prop} {Q : PortIn → Prop}
    (hkeep : ∀ s t, P s → Q s.edgeIn → Transition s t → P t) (edges : List PortIn) {rest : List PortIn} {s : State}
    (hs : P s) (hedges : ∀ e ∈ edges, Q e) (hin : s.inputs = edges ++ rest) :
    ∃ t, runEdges edges.length s = .next t ∧ P t ∧ t.inputs = rest := by
  induction edges generalizing s with
  | nil => exact ⟨s, rfl, hs, hin⟩
  | cons e edges ih =>
    obtain ⟨he, hrest⟩ := List.forall_mem_cons.mp hedges
    obtain ⟨u, hstep, htrans⟩ := exists_transition s
    have hu : P u := hkeep s u hs ((edgeIn_of_inputs hin).symm ▸ he) htrans
    obtain ⟨t, hrun, ht⟩ := ih hu hrest (htrans.inputs_eq.trans (tail_of_inputs hin))
    exact ⟨t, (runEdges_succ edges.length hstep).trans hrun, ht⟩

/-! ### What the host has recorded -/

/-- The recorded outcomes, the responses taken and the two counts are the same: no command was accepted and no
response taken from one state to the other. -/
structure SameRecord (s t : State) : Prop where
  marks    : t.marks = s.marks
  taken    : t.taken = s.taken
  accepted : t.accepted = s.accepted
  answered : t.answered = s.answered

theorem SameRecord.refl (s : State) : SameRecord s s := ⟨rfl, rfl, rfl, rfl⟩

theorem SameRecord.trans {s t u : State} (h : SameRecord s t) (h' : SameRecord t u) : SameRecord s u :=
  ⟨h'.marks.trans h.marks, h'.taken.trans h.taken, h'.accepted.trans h.accepted, h'.answered.trans h.answered⟩

/-- Without a reset and without `rsp_ready`, a unit that is not ready stays so, and nothing is recorded. -/
theorem Transition.sameRecord {s t : State} (h : Transition s t) (hready : s.cmdReady = false)
    (hr : s.edgeIn.rst = false) (ht : s.edgeIn.rspReady = false) : t.cmdReady = false ∧ SameRecord s t := by
  cases h with
  | reset hr' => exact absurd (hr.symm.trans hr') Bool.false_ne_true
  | accept _ hb hv => simp [State.cmdReady, hb, hv] at hready
  | take _ _ _ ht' => exact absurd (ht.symm.trans ht') Bool.false_ne_true
  | complete => exact ⟨rfl, rfl, rfl, rfl, rfl⟩
  | idle | wait | offence | hold => exact ⟨hready, rfl, rfl, rfl, rfl⟩

/-- Before a reset or TAKE, an accepted command leaves the host's record as ACCEPT left it. -/
theorem runEdges_not_ready (edges : List PortIn) {rest : List PortIn} {s : State} (hready : s.cmdReady = false)
    (hedges : ∀ e ∈ edges, e.rst = false ∧ e.rspReady = false) (hin : s.inputs = edges ++ rest) :
    ∃ t, runEdges edges.length s = .next t ∧ (t.cmdReady = false ∧ SameRecord s t) ∧ t.inputs = rest := by
  refine exists_runEdges_of_invariant (P := fun t => t.cmdReady = false ∧ SameRecord s t) (fun u t hu he h => ?_)
    edges ⟨hready, .refl s⟩ hedges hin
  obtain ⟨hready', hsame⟩ := hu
  obtain ⟨hr, ht⟩ := he
  obtain ⟨hready'', hsame'⟩ := h.sameRecord hready' hr ht
  exact ⟨hready'', hsame.trans hsame'⟩

/-! ### One command -/

/-- The unit `t` is DONE with the response `v`, and the host's record is that of `s`. -/
structure Responds (s : State) (v : Word) (t : State) : Prop extends SameRecord s t where
  busy     : t.busy = false
  rspValid : t.rspValid = true
  res      : t.res = v

/-- A command in contract waits one edge for each that is left, and completes at the next (R163, R200). -/
theorem runEdges_complete (edges : List PortIn) {rest : List PortIn} {s : State} {i : Instr} (hb : s.busy = true)
    (hd : decode s.latched = .command i) (hc : contractFault i = none) (hlen : edges.length = s.wait + 1)
    (hedges : ∀ e ∈ edges, e.rst = false) (hin : s.inputs = edges ++ rest) :
    ∃ t, runEdges edges.length s = .next t ∧ Responds s (commandValue i) t ∧ t.inputs = rest := by
  induction edges generalizing s with
  | nil => cases hlen
  | cons e edges ih =>
    obtain ⟨he, hrest⟩ := List.forall_mem_cons.mp hedges
    have hr : s.edgeIn.rst = false := (edgeIn_of_inputs hin).symm ▸ he
    have hlen' : edges.length = s.wait := Nat.succ.inj hlen
    cases hw : s.wait with
    | zero =>
      obtain rfl : edges = [] := List.eq_nil_of_length_eq_zero (hlen'.trans hw)
      obtain ⟨work, hfinish⟩ := finish_eq_complete hc s.popEdge
      have hstep := step_finish hr hb hw hd hc
      rw [hfinish] at hstep
      exact ⟨_, runEdges_one hstep, ⟨⟨rfl, rfl, rfl, rfl⟩, rfl, rfl, rfl⟩, tail_of_inputs hin⟩
    | succ k =>
      obtain ⟨t, hrun, hresp, hinputs⟩ := ih (s := s.popEdge.waitOn k) hb hd (hlen'.trans hw) hrest
        (tail_of_inputs hin)
      exact ⟨t, (runEdges_succ edges.length (step_wait hr hb hw)).trans hrun, { hresp with }, hinputs⟩

/-- The atomic view answers a value for a packet in contract only (R166). -/
theorem exists_decode_of_issue_ok {p : Packet} {v : Word} (h : issue p = .ok v) :
    ∃ i, decode p = .command i ∧ contractFault i = none ∧ commandValue i = v := by
  cases hd : decode p with
  | reserved op => simp [issue, hd] at h
  | command i =>
    cases hc : contractFault i with
    | some f => simp [issue, hd, hc] at h
    | none => exact ⟨i, rfl, hc, Except.ok.inj ((issue_of_decode_command hd hc).symm.trans h)⟩

/-- ACCEPT of a packet in contract records nothing, and its latency counts from the next edge (R161, R200). -/
theorem step_accept_of_issue_ok {s : State} {p : Packet} {v : Word} {e : PortIn} {rest : List PortIn}
    (hready : s.cmdReady = true) (hp : issue p = .ok v) (hr : e.rst = false) (hc : e.cmdValid = true)
    (he : e.cmd = p) (hin : s.inputs = e :: rest) :
    step s = .next (s.popEdge.accept p) ∧ (s.popEdge.accept p).marks = s.marks ∧
      (s.popEdge.accept p).inputs = rest := by
  obtain ⟨i, hd, hcontract, -⟩ := exists_decode_of_issue_ok hp
  have hmark : packetMark p = none := packetMark_eq_none_iff.mpr ⟨i, hd, hcontract⟩
  obtain rfl := edgeIn_of_inputs hin
  refine ⟨?_, by simp [hmark], tail_of_inputs hin⟩
  rw [step_accept hr hc hready, he]

/-- Settles O54: ACCEPT, the waiting edges with COMPLETE at the last, TAKE. -/
theorem protocolRefinesAtomicIssue : Obligations.ProtocolRefinesAtomicIssue := by
  intro s p v e₀ e₁ edges rest hready hp hr₀ hc₀ he₀ hlen hedges hr₁ ht₁ hin
  obtain ⟨haccept, hmarks, hinputs⟩ := step_accept_of_issue_ok hready hp hr₀ hc₀ he₀ hin
  obtain ⟨i, hd, hc, rfl⟩ := exists_decode_of_issue_ok hp
  obtain ⟨u, hrun, hu, hu_in⟩ := runEdges_complete edges (s := s.popEdge.accept p) rfl
    (by rw [State.latched_accept, hd]) hc hlen hedges hinputs
  have he := edgeIn_of_inputs hu_in
  have htake := step_take (he ▸ hr₁) hu.busy hu.rspValid (he ▸ ht₁)
  refine ⟨u.popEdge.take, ?_, isIdle_iff.mpr ⟨hu.busy, rfl⟩, ?_, hu.marks.trans hmarks, tail_of_inputs hu_in,
    hu.accepted, rfl⟩
  · exact (runEdges_succ _ haccept).trans (runEdges_concat hrun htake)
  · simp [hu.taken, hu.res]

/-! ### Several commands -/

/-- Settles O55, by induction on the list of packets: each is the one transaction of the atomic view. -/
theorem commandsAreAnsweredInOrder : Obligations.CommandsAreAnsweredInOrder := by
  intro ps vs s rest hready hvalues hin
  induction hvalues generalizing s with
  | nil =>
    exact ⟨0, s, rfl, hready, (List.append_nil _).symm, rfl, hin,
      fun hm h => ⟨hready, rfl, h.resolve_left fun hne => hne rfl, hm⟩⟩
  | @cons p v ps vs hp _ ih =>
    obtain ⟨u, hrun, hidle, htaken, hmarks, hinputs, haccepted, hanswered⟩ :=
      protocolRefinesAtomicIssue s p v (.present p) .takeRsp (.replicate (Config.latency p.op p.a p.b p.m) .quiet)
        (hostScript ps ++ rest) hready hp rfl rfl rfl List.length_replicate
        (fun e he => by rw [List.eq_of_mem_replicate he, PortIn.quiet]) rfl rfl (by simp [hin, hostScript])
    obtain ⟨k, t, hrun', hidle', htaken', hmarks', hinputs', hended⟩ := ih u hidle hinputs
    refine ⟨_, t, (runEdges_add _ k hrun).trans hrun', hidle', ?_, hmarks'.trans hmarks, hinputs', fun hm _ => ?_⟩
    · rw [htaken', htaken, List.append_assoc, List.singleton_append]
    · rw [List.length_cons, Nat.add_comm ps.length, ← Nat.add_assoc, ← haccepted]
      exact hended (hmarks.trans hm) (.inr hanswered)

/-- A packet in contract that is accepted and abandoned by a reset before TAKE leaves one more accepted command, and
else nothing (R191, program P4). -/
theorem runEdges_abandoned {s : State} {p : Packet} {u : Word} {e₀ e₁ : PortIn} {edges rest : List PortIn}
    (hready : s.cmdReady = true) (hp : issue p = .ok u) (hr₀ : e₀.rst = false) (hc₀ : e₀.cmdValid = true)
    (he₀ : e₀.cmd = p) (hedges : ∀ e ∈ edges, e.rst = false ∧ e.rspReady = false) (hr₁ : e₁.rst = true)
    (hin : s.inputs = e₀ :: (edges ++ e₁ :: rest)) :
    ∃ t, runEdges (edges.length + 2) s = .next t ∧ t.cmdReady = true ∧ t.marks = s.marks ∧ t.taken = s.taken ∧
      t.accepted = s.accepted + 1 ∧ t.inputs = rest := by
  obtain ⟨haccept, hmarks, hinputs⟩ := step_accept_of_issue_ok hready hp hr₀ hc₀ he₀ hin
  obtain ⟨w, hrun, ⟨-, hsame⟩, hw_in⟩ := runEdges_not_ready edges (s := s.popEdge.accept p) rfl hedges hinputs
  have hreset := step_reset (s := w) ((edgeIn_of_inputs hw_in).symm ▸ hr₁)
  refine ⟨w.popEdge.resetEdge, ?_, rfl, hsame.marks.trans hmarks, hsame.taken, hsame.accepted, tail_of_inputs hw_in⟩
  exact (runEdges_succ _ haccept).trans (runEdges_concat hrun hreset)

/-- Settles O59: the abandoned command, then the one transaction of the second. -/
theorem runEndsWithTheLastResponse : Obligations.RunEndsWithTheLastResponse := by
  intro s p q u v e₀ e₁ e₂ e₃ edges edges' rest hready hm hp hq hr₀ hc₀ he₀ hedges hr₁ hr₂ hc₂ he₂ hlen hedges' hr₃
    ht₃ hin
  obtain ⟨w, hrun, hready', hmarks, htaken, haccepted, hinputs⟩ :=
    runEdges_abandoned hready hp hr₀ hc₀ he₀ hedges hr₁ hin
  obtain ⟨t, hrun', hidle, htaken', hmarks', hinputs', haccepted', hanswered⟩ :=
    protocolRefinesAtomicIssue w q v e₂ e₃ edges' rest hready' hq hr₂ hc₂ he₂ hlen hedges' hr₃ ht₃ hinputs
  have hcount : t.accepted = s.accepted + 2 := by rw [haccepted', haccepted]
  exact ⟨t, (runEdges_add _ _ hrun).trans hrun',
    ⟨hidle, hcount, hanswered.trans hcount, (hmarks'.trans hmarks).trans hm⟩, by rw [htaken', htaken], hinputs'⟩

end Sys2Proof.Proofs
end

section
/-! PROOFS. The outcomes of commands that do not complete: the table of R171, their record at ACCEPT, the unit that
stays BUSY with such a command, and RESET, which recovers it (60_exceptions.md R170 to R176, R183). -/

namespace Sys2Proof.Proofs

open Sys2Proof.Machine Sys2Proof.Safety

/-! ### The table of outcomes (R171) -/

/-- The rows of the opcode table with an operand m deserve what their one test of m says. -/
theorem packetMark_of_op_modular {p : Packet} (h : p.op = 0 ∨ p.op = 1 ∨ p.op = 2 ∨ p.op = 3) :
    packetMark p = (modulusFault p.m).map .fault := by
  obtain h | h | h | h := h
  · exact packetMark_command (decode_of_op_zero h)
  · exact packetMark_command (decode_of_op_one h)
  · exact packetMark_command (decode_of_op_two h)
  · exact packetMark_command (decode_of_op_three h)

theorem packetMark_of_op_four {p : Packet} (h : p.op = 4) : packetMark p = (candidateFault p.a).map .fault :=
  packetMark_command (decode_of_op_four h)

theorem candidateFault_eq_ite (n : Word) :
    candidateFault n = if n.toNat % 2 = 0 ∨ n.toNat ≤ 3 then some .mrPrecondition else none := by
  split
  · next h =>
    refine candidateFault_some.mpr ⟨fun hc => ?_, rfl⟩
    obtain ⟨hodd, h3⟩ := candidateFault_none_iff.mp (candidateFault_none.mpr hc)
    omega
  · next h => exact candidateFault_none_iff.mpr (by omega)

/-- The three groups of opcodes the table distinguishes, by the number `op` stands for. -/
theorem opcode_groups (op : Opcode) :
    (op.toNat ≤ 3 → op = 0 ∨ op = 1 ∨ op = 2 ∨ op = 3) ∧ (op.toNat = 4 → op = 4) ∧
      (5 ≤ op.toNat → op = 5 ∨ op = 6 ∨ op = 7) := by
  decide +revert

/-- Settles O34: each group of opcodes has one contract test, or none to pass. -/
theorem outcomeTableIsComplete : Obligations.OutcomeTableIsComplete := by
  intro p
  obtain ⟨hmodular, hfour, hreserved⟩ := opcode_groups p.op
  refine ⟨fun h => ?_, fun h => ?_, fun h => packetMark_of_op_reserved (hreserved h)⟩
  · rw [packetMark_of_op_modular (hmodular h), modulusFault]
    split <;> rfl
  · rw [packetMark_of_op_four (hfour h), candidateFault_eq_ite]
    split <;> rfl

/-! ### The record (R172) -/

/-- Settles O41: the edge is ACCEPT of the presented packet. -/
theorem acceptRecordsTheOutcome : Obligations.AcceptRecordsTheOutcome :=
  fun s hr hc hready => ⟨_, step_accept hr hc hready, rfl, s.popEdge.latched_accept s.edgeIn.cmd⟩

/-- Settles O43: of the transitions, ACCEPT alone writes the recorded outcomes. -/
theorem recordedOutcomesStay : Obligations.RecordedOutcomesStay := by
  intro s t h
  cases transition_of_step h with
  | accept hr hb hv hc => exact .inr ⟨hr, hc, cmdReady_iff.mpr ⟨hb, hv⟩, rfl⟩
  | reset | idle | wait | offence | complete | take | hold => exact .inl rfl

/-! ### The command in flight (R172, R163) -/

/-- Settles O42: an offending command only waits; one in contract waits, or is due and comes to its end. -/
theorem offendingCommandNeverCompletes : Obligations.OffendingCommandNeverCompletes := by
  intro s hb hr
  refine ⟨fun hm => ⟨s.wait - 1, s.work, step_offence hr hb hm⟩, fun hm => ?_⟩
  cases hw : s.wait with
  | succ k => exact ⟨_, step_wait hr hb hw, .inl ⟨k.succ_ne_zero, hb, rfl⟩⟩
  | zero =>
    obtain ⟨i, hd, hc⟩ := packetMark_eq_none_iff.mp hm
    obtain ⟨work, v, hfinish⟩ := finish_eq i s.popEdge
    refine ⟨_, step_finish hr hb hw hd hc, .inr ⟨rfl, ?_⟩⟩
    rw [hfinish]
    exact ⟨rfl, rfl⟩

/-- Over any number of edges without a reset, an offending command in flight changes nothing of the unit but its
count of edges to wait (R172; log 6). -/
theorem runEdges_offence (edges : List PortIn) {rest : List PortIn} {s : State} (hb : s.busy = true)
    (hm : packetMark s.latched ≠ none) (hedges : ∀ e ∈ edges, e.rst = false) (hin : s.inputs = edges ++ rest) :
    ∃ k, runEdges edges.length s = .next { s with wait := k, inputs := rest } := by
  induction edges generalizing s with
  | nil =>
    obtain rfl : s.inputs = rest := hin
    exact ⟨s.wait, rfl⟩
  | cons e edges ih =>
    obtain ⟨he, hrest⟩ := List.forall_mem_cons.mp hedges
    have hstep := step_offence ((edgeIn_of_inputs hin).symm ▸ he) hb hm
    obtain ⟨k, hrun⟩ := ih (s := s.popEdge.waitOn (s.wait - 1)) hb hm hrest (tail_of_inputs hin)
    exact ⟨k, (runEdges_succ edges.length hstep).trans hrun⟩

/-! ### RESET recovers (R176, R191) -/

/-- Settles O56: ACCEPT, the edges the offending command stays in flight, RESET. -/
theorem onlyResetRecoversFromAnOffence : Obligations.OnlyResetRecoversFromAnOffence := by
  intro s p m e₀ e₁ edges rest hready hp hr₀ hc₀ he₀ hedges hr₁ hin
  obtain rfl := edgeIn_of_inputs hin
  have haccept := step_accept hr₀ hc₀ hready
  rw [he₀] at haccept
  have hlatched : (s.popEdge.accept p).latched = p := State.latched_accept _ p
  obtain ⟨k, hrun⟩ := runEdges_offence edges (s := s.popEdge.accept p) rfl (by simp [hlatched, hp]) hedges
    (tail_of_inputs hin)
  have hrun' := (runEdges_succ edges.length haccept).trans hrun
  have hmarks : s.marks ++ (packetMark p).toList = s.marks ++ [m] := by rw [hp, Option.toList_some]
  obtain ⟨-, hv⟩ := cmdReady_iff.mp hready
  exact ⟨_, _, hrun', rfl, hv, hlatched, rfl, hmarks, runEdges_concat hrun' (step_reset hr₁), rfl, rfl, rfl, hmarks,
    rfl⟩

/-! ### Edges at which no command is in flight, and all edges (R170, R183) -/

/-- Settles O45: an idle edge leaves the unit as it is. -/
theorem idleUnitWaits : Obligations.IdleUnitWaits := by
  intro s hr hc hready
  obtain ⟨hb, hv⟩ := cmdReady_iff.mp hready
  rw [step_idle hr hb hv, idleEdge, if_neg (Bool.eq_false_iff.mp hc), State.popEdge]

/-- Settles O57: one of the named transitions happens at every edge. -/
theorem everyEdgeAnswersANextState : Obligations.EveryEdgeAnswersANextState := fun s =>
  (exists_transition s).imp fun _ h => h.1

end Sys2Proof.Proofs
end

section
/-! PROOFS. RESET (70_reset_and_hazards.md R190, R191): what the edge clears, and that nothing the unit held before it
can be told apart afterwards. -/

namespace Sys2Proof.Proofs

open Sys2Proof.Machine Sys2Proof.Safety

/-- A reset unit is IDLE, so its registers are hidden: what the host sees of it is the host's own side and the
recorded outcomes, which RESET leaves. Unlike `sameForHost_resetEdge`, no premise speaks of the unit before the edge. -/
theorem sameForHost_resetEdge_of_host {s t : State} (hmarks : s.marks = t.marks) (htaken : s.taken = t.taken)
    (haccepted : s.accepted = t.accepted) (hanswered : s.answered = t.answered) (hinputs : s.inputs = t.inputs) :
    SameForHost s.resetEdge t.resetEdge where
  busy := rfl
  rspValid := rfl
  inFlight h := absurd h Bool.false_ne_true
  response h := absurd h Bool.false_ne_true
  marks := hmarks
  taken := htaken
  accepted := haccepted
  answered := hanswered
  inputs := hinputs

/-- Settles O46: the edge is RESET, whose free values are the registers R190 leaves unspecified. -/
theorem resetEdgeClearsTheFlags : Obligations.ResetEdgeClearsTheFlags := by
  intro s hr
  have hstep := step_reset hr
  refine ⟨_, _, _, _, _, _, _, hstep, fun t ht => ?_⟩
  cases hstep.symm.trans ht
  exact ⟨cmdReady_iff.mpr ⟨rfl, rfl⟩, rfl⟩

/-- Settles O47: both units take RESET, which leaves the host's list of responses as it is. -/
theorem resetLeavesNoTrace : Obligations.ResetLeavesNoTrace := by
  intro s t hs ht hinputs htaken hmarks haccepted hanswered
  have hsame : SameForHost s.popEdge.resetEdge t.popEdge.resetEdge :=
    sameForHost_resetEdge_of_host hmarks htaken haccepted hanswered hinputs
  exact ⟨_, _, step_reset hs, step_reset ht, hsame, rfl⟩

end Sys2Proof.Proofs
end

section
/-! PROOFS. The decoder and the encoder undo each other, up to the fields of a MILLER_RABIN packet that carry no operand
(30_encoding.md R70, R73, R74, R78). -/

namespace Sys2Proof.Proofs

/-! ### The decoder on a packet given by its fields -/

theorem decode_packet_zero (a b m : Word) : decode (packet 0 a b m) = .command (.modadd a b m) := by
  rw [decode_of_op_zero (packet_op ..), packet_a, packet_b, packet_m]

theorem decode_packet_one (a b m : Word) : decode (packet 1 a b m) = .command (.modsub a b m) := by
  rw [decode_of_op_one (packet_op ..), packet_a, packet_b, packet_m]

theorem decode_packet_two (a b m : Word) : decode (packet 2 a b m) = .command (.modmul a b m) := by
  rw [decode_of_op_two (packet_op ..), packet_a, packet_b, packet_m]

theorem decode_packet_three (a b m : Word) : decode (packet 3 a b m) = .command (.modpow a b m) := by
  rw [decode_of_op_three (packet_op ..), packet_a, packet_b, packet_m]

/-- Settles O3: on op 4 the decoder reads field `a` only. -/
theorem millerRabinIgnoresFieldsBAndM : Obligations.MillerRabinIgnoresFieldsBAndM := fun n b m => by
  rw [decode_of_op_four (packet_op ..), packet_a]

/-! ### Decoding what the encoder writes -/

theorem decode_encode (i : Instr) : decode (encode i) = .command i := by
  cases i with
  | modadd a b m => exact decode_packet_zero a b m
  | modsub a b m => exact decode_packet_one a b m
  | modmul a b m => exact decode_packet_two a b m
  | modpow a b m => exact decode_packet_three a b m
  | millerRabin n => exact millerRabinIgnoresFieldsBAndM n 0 0

/-- Settles O4: every command is well formed (R76), and the decoder undoes the encoder on each. -/
theorem decodeOfEncodeIsTheCommand : Obligations.DecodeOfEncodeIsTheCommand := fun i _ => decode_encode i

/-! ### Encoding what the decoder reads -/

section
variable {p : Packet} {i : Instr}

theorem packet_of_op {op : Opcode} (h : p.op = op) : packet op p.a p.b p.m = p := by
  rw [← h, packet_fields]

/-- A command other than MILLER_RABIN has all four fields of its packet as opcode and operands, so no bit is lost. -/
theorem encode_of_decode (h : decode p = .command i) (h4 : p.op ≠ 4) : encode i = p := by
  have hop := op_of_decode_command h
  cases i with
  | modadd a b m =>
    cases (decode_of_op_zero hop).symm.trans h
    exact packet_of_op hop
  | modsub a b m =>
    cases (decode_of_op_one hop).symm.trans h
    exact packet_of_op hop
  | modmul a b m =>
    cases (decode_of_op_two hop).symm.trans h
    exact packet_of_op hop
  | modpow a b m =>
    cases (decode_of_op_three hop).symm.trans h
    exact packet_of_op hop
  | millerRabin n => exact absurd hop h4

theorem encode_of_decode_millerRabin (h : decode p = .command i) (h4 : p.op = 4) : encode i = packet 4 p.a 0 0 := by
  cases (decode_of_op_four h4).symm.trans h
  rfl

end

/-- Settles O5: a packet is its four fields; on op 4 the encoder writes 0 into the two that hold no operand. -/
theorem encodeOfDecodeIsThePacket : Obligations.EncodeOfDecodeIsThePacket := fun _ _ h =>
  ⟨encode_of_decode h, encode_of_decode_millerRabin h⟩

/-! ### Written packets (95_test_vectors.md parts 2 and 3) -/

/-- Settles O6: each packet is a literal, so the decoder is evaluated on it. -/
theorem writtenPacketsDecode : Obligations.WrittenPacketsDecode := by
  refine ⟨?_, ?_, ?_, ?_, ?_, ?_, ?_⟩ <;> decide

end Sys2Proof.Proofs
end

section
/-! PROOFS. The host's assembly lines (30_encoding.md R78): the well-formed lines are exactly the lines that commands
are written as, and the assembler reads the command back. -/

namespace Sys2Proof.Proofs

/-- The line a command is written as: the name in the source's signature and the values of its operands (R73, R78). -/
def lineOf : Instr → HostLine
  | .modadd a b m => { name := .mod_add, operands := [a.toNat, b.toNat, m.toNat] }
  | .modsub a b m => { name := .mod_sub, operands := [a.toNat, b.toNat, m.toNat] }
  | .modmul a b m => { name := .mod_mul, operands := [a.toNat, b.toNat, m.toNat] }
  | .modpow a b m => { name := .mod_pow, operands := [a.toNat, b.toNat, m.toNat] }
  | .millerRabin n => { name := .miller_rabin, operands := [n.toNat] }

theorem wellFormed_line_iff {l : HostLine} :
    l.wellFormed = true ↔ l.operands.length = l.name.arity ∧ ∀ x ∈ l.operands, x < 2 ^ 64 := by
  simp [HostLine.wellFormed, HostLine.arityMatches, HostLine.operandsInRange]

theorem wellFormed_lineOf (i : Instr) : (lineOf i).wellFormed = true := by
  rw [wellFormed_line_iff]
  cases i <;> simp [lineOf, LineName.arity, BitVec.isLt, -Nat.reducePow]

theorem assemble_lineOf (i : Instr) : assemble (lineOf i) = some i := by
  rw [assemble, if_pos (wellFormed_lineOf i)]
  cases i <;> simp [lineOf]

/-- A list of numbers below 2^64 is the list of values of some words. -/
theorem exists_map_toNat_eq {xs : List Nat} (h : ∀ x ∈ xs, x < 2 ^ 64) :
    ∃ ws : List Word, ws.map BitVec.toNat = xs :=
  (Set.range_list_map BitVec.toNat).ge fun x hx => ⟨BitVec.ofNatLT x (h x hx), rfl⟩

/-- The operands of a well-formed line are the values of words, as many as the command of its name takes. -/
theorem exists_lineOf_eq {l : HostLine} (h : l.wellFormed = true) : ∃ i, lineOf i = l := by
  obtain ⟨name, operands⟩ := l
  obtain ⟨hlength, hrange⟩ := wellFormed_line_iff.mp h
  obtain ⟨ws, rfl⟩ := exists_map_toNat_eq hrange
  rw [List.length_map] at hlength
  cases name with
  | mod_add =>
    obtain ⟨a, b, m, rfl⟩ := List.length_eq_three.mp hlength
    exact ⟨.modadd a b m, rfl⟩
  | mod_sub =>
    obtain ⟨a, b, m, rfl⟩ := List.length_eq_three.mp hlength
    exact ⟨.modsub a b m, rfl⟩
  | mod_mul =>
    obtain ⟨a, b, m, rfl⟩ := List.length_eq_three.mp hlength
    exact ⟨.modmul a b m, rfl⟩
  | mod_pow =>
    obtain ⟨a, b, m, rfl⟩ := List.length_eq_three.mp hlength
    exact ⟨.modpow a b m, rfl⟩
  | miller_rabin =>
    obtain ⟨n, rfl⟩ := List.length_eq_one_iff.mp hlength
    exact ⟨.millerRabin n, rfl⟩

theorem assemble_eq_none_iff {l : HostLine} : assemble l = none ↔ ¬ l.wellFormed = true := by
  refine ⟨fun hnone h => ?_, fun h => by rw [assemble, if_neg h]⟩
  obtain ⟨i, rfl⟩ := exists_lineOf_eq h
  cases (assemble_lineOf i).symm.trans hnone

/-- Settles O8: the lines of the signatures are those of `lineOf`, and a line is refused exactly when it is not well
formed. -/
theorem hostLineAssembles : Obligations.HostLineAssembles := by
  refine ⟨fun a b m => ⟨assemble_lineOf (.modadd a b m), assemble_lineOf (.modsub a b m),
    assemble_lineOf (.modmul a b m), assemble_lineOf (.modpow a b m)⟩,
    fun n => ⟨assemble_lineOf (.millerRabin n), rfl⟩, fun l => ?_⟩
  rw [assemble_eq_none_iff, wellFormed_line_iff, not_and_or]
  simp only [not_forall, not_lt, exists_prop, ne_eq]

end Sys2Proof.Proofs
end

section
/-! PROOFS. The constants of the unit: the contents of the witness ROM (20_memory.md R50) and the state after reset
(10_state.md R32, 70_reset_and_hazards.md R192). -/

namespace Sys2Proof.Proofs

open Sys2Proof.Machine

/-- Settles O9: the ROM is read at the twelve indexes of the witness loop. -/
theorem witnessRomHoldsTheTwelvePrimes : Obligations.WitnessRomHoldsTheTwelvePrimes :=
  ⟨by decide, by decide⟩

/-- Settles O50: both flags are clear, which is what makes the unit ready, and both lists are empty. -/
theorem resetStateIsIdle : Obligations.ResetStateIsIdle :=
  ⟨rfl, rfl, cmdReady_iff.mpr ⟨rfl, rfl⟩, rfl, rfl⟩

end Sys2Proof.Proofs
end
